-- ==== Sys2Proof/Word.lean ====
section
/-! DEFINITION. The word types of the command port and of the scalar registers. -/

namespace Sys2Proof

/-- A command word or a response word (00_scope.md R10). -/
abbrev Word := BitVec 64

/-- A 24-bit operand field or scalar register (30_encoding.md R70; 10_state.md R20, R21, R23). -/
abbrev Reg24 := BitVec 24

/-- An 8-bit field of a word, or one byte of a word moved as bytes (30_encoding.md R70; 20_memory.md R52). -/
abbrev Byte := BitVec 8

end Sys2Proof
end

