-- ==== Sys2Proof/Syntax.lean ====
section
/-! DEFINITION. The 28 commands of spec/opcode_table.json, one constructor per row. An operand is the unsigned integer
of its field (30_encoding.md R73); the one-bit flags `sel` and `d` are the names R73 gives their two values. -/

namespace Sys2Proof

/-- `sel`: 0 names `COL`, 1 names `ROW` (30_encoding.md R73). -/
inductive Side where
  | columns
  | rows
deriving DecidableEq, Repr

/-- `d`: 0 derives rows from columns, 1 columns from rows (30_encoding.md R73). -/
inductive Direction where
  | forward
  | backward
deriving DecidableEq, Repr

/-- One constructor per row of the opcode table (30_encoding.md R74), operands in the order of R79. -/
inductive Instr where
  | rdst (s : Nat)
  | rdcfg (s : Nat)
  | srst
  | nop
  | wrs (sel : Side) (k l p : Nat)
  | rds (sel : Side) (k l : Nat)
  | trn (d : Direction) (k : Nat)
  | rdd (sel : Side) (k j : Nat)
  | eclr
  | etog (k j : Nat)
  | rde (k j : Nat)
  | rdew
  | ewchk
  | sclr
  | xacc (k : Nat)
  | syn
  | stog (j : Nat)
  | rdsy (j : Nat)
  | rdsw
  | flip (k j : Nat)
  | cnt
  | getc (k j : Nat)
  | rdc (k j : Nat)
  | selr (L lo hi : Nat)
  | topk (L K : Nat)
  | flipl (L : Nat)
  | rdl (L i : Nat)
  | rdln (L : Nat)
deriving DecidableEq, Repr

end Sys2Proof
end

