-- ==== Sys2Proof/WellFormed.lean ====
section
/-! DEFINITION. When an instruction has an encoding: every operand fits the field its format gives it
(30_encoding.md R70, R72, R73). Whether an operand is LEGAL (a block index below 2, a position below R) is no matter of
encoding: the command itself checks that (60_exceptions.md R182 steps 4 and 5). -/

namespace Sys2Proof

/-- The four bits `sub[3:0]` of a block index or list id. -/
def fitsIndex (n : Nat) : Bool := decide (n < 2 ^ 4)

/-- The eight bits `sub[7:0]` of a selector. -/
def fitsSelector (n : Nat) : Bool := decide (n < 2 ^ 8)

/-- The 24 bits of the field `a` or `b`. -/
def fitsOperand (n : Nat) : Bool := decide (n < 2 ^ 24)

/-- Every operand fits its field. -/
def Instr.wellFormed : Instr → Bool
  | .rdst s => fitsSelector s
  | .rdcfg s => fitsSelector s
  | .srst => true
  | .nop => true
  | .wrs _ k l p => fitsIndex k && fitsOperand l && fitsOperand p
  | .rds _ k l => fitsIndex k && fitsOperand l
  | .trn _ k => fitsIndex k
  | .rdd _ k j => fitsIndex k && fitsOperand j
  | .eclr => true
  | .etog k j => fitsIndex k && fitsOperand j
  | .rde k j => fitsIndex k && fitsOperand j
  | .rdew => true
  | .ewchk => true
  | .sclr => true
  | .xacc k => fitsIndex k
  | .syn => true
  | .stog j => fitsOperand j
  | .rdsy j => fitsOperand j
  | .rdsw => true
  | .flip k j => fitsIndex k && fitsOperand j
  | .cnt => true
  | .getc k j => fitsIndex k && fitsOperand j
  | .rdc k j => fitsIndex k && fitsOperand j
  | .selr L lo hi => fitsIndex L && fitsOperand lo && fitsOperand hi
  | .topk L K => fitsIndex L && fitsOperand K
  | .flipl L => fitsIndex L
  | .rdl L i => fitsIndex L && fitsOperand i
  | .rdln L => fitsIndex L

end Sys2Proof
end

