-- ==== Sys2Proof/Decode.lean ====
section
/-! DEFINITION. Command words: the fields (30_encoding.md R70), the formats and their reserved bits (R72, R76), the opcode
map (R74), the decoder (R75 to R77), the encoder (R79's `op << 56 | sub << 48 | a << 24 | b`), and words moved as
bytes (20_memory.md R52). -/

namespace Sys2Proof

/-- `CW[63:56]`. -/
def opField (cw : Word) : Byte := cw.extractLsb' 56 8

/-- `CW[55:48]`. -/
def subField (cw : Word) : Byte := cw.extractLsb' 48 8

/-- `CW[47:24]`. -/
def aField (cw : Word) : Reg24 := cw.extractLsb' 24 24

/-- `CW[23:0]`. -/
def bField (cw : Word) : Reg24 := cw.extractLsb' 0 24

/-- The four fields put together, `op` most significant (R70; the same layout for the response, R71). -/
def wordOf (op sub : Byte) (a b : Reg24) : Word := op ++ sub ++ a ++ b

/-- The eleven formats of R72. -/
inductive Format where
  | Z | S | MW | MA | MT | K | KA | A | LAB | LA | L
deriving DecidableEq, Repr

/-- The bits a format lists as `0` (R72, R76). -/
def Format.reserved : Format → Word
  | .Z => wordOf 0x00 0xFF 0xFFFFFF 0xFFFFFF
  | .S => wordOf 0x00 0x00 0xFFFFFF 0xFFFFFF
  | .MW => wordOf 0x00 0xE0 0x000000 0x000000
  | .MA => wordOf 0x00 0xE0 0x000000 0xFFFFFF
  | .MT => wordOf 0x00 0xE0 0xFFFFFF 0xFFFFFF
  | .K => wordOf 0x00 0xF0 0xFFFFFF 0xFFFFFF
  | .KA => wordOf 0x00 0xF0 0x000000 0xFFFFFF
  | .A => wordOf 0x00 0xFF 0x000000 0xFFFFFF
  | .LAB => wordOf 0x00 0xF0 0x000000 0x000000
  | .LA => wordOf 0x00 0xF0 0x000000 0xFFFFFF
  | .L => wordOf 0x00 0xF0 0xFFFFFF 0xFFFFFF

/-- `x = sub[3:0]`, a block index or a list id (R72, R73). -/
def indexOf (sub : Byte) : Nat := (sub.extractLsb' 0 4).toNat

/-- `sel = sub[4]` (R73). -/
def sideOf (sub : Byte) : Side := if sub.getLsbD 4 then .rows else .columns

/-- `d = sub[4]` (R73). -/
def directionOf (sub : Byte) : Direction := if sub.getLsbD 4 then .backward else .forward

/-- One row of the opcode map: how the operands are assembled from `sub`, `a`, `b` is `build` (R73). -/
structure OpcodeRow where
  op : Byte
  mnemonic : String
  format : Format
  build : Byte → Reg24 → Reg24 → Instr

/-- The system rows of R74. -/
def systemRows : List OpcodeRow :=
  [⟨0x01, "RDST", .S, fun sub _ _ => .rdst sub.toNat⟩,
   ⟨0x02, "RDCFG", .S, fun sub _ _ => .rdcfg sub.toNat⟩,
   ⟨0x03, "SRST", .Z, fun _ _ _ => .srst⟩,
   ⟨0x04, "NOP", .Z, fun _ _ _ => .nop⟩]

/-- The matrix rows of R74. -/
def matrixRows : List OpcodeRow :=
  [⟨0x10, "WRS", .MW, fun sub a b => .wrs (sideOf sub) (indexOf sub) a.toNat b.toNat⟩,
   ⟨0x11, "RDS", .MA, fun sub a _ => .rds (sideOf sub) (indexOf sub) a.toNat⟩,
   ⟨0x12, "TRN", .MT, fun sub _ _ => .trn (directionOf sub) (indexOf sub)⟩,
   ⟨0x13, "RDD", .MA, fun sub a _ => .rdd (sideOf sub) (indexOf sub) a.toNat⟩]

/-- The error-vector rows of R74. -/
def errorRows : List OpcodeRow :=
  [⟨0x20, "ECLR", .Z, fun _ _ _ => .eclr⟩,
   ⟨0x21, "ETOG", .KA, fun sub a _ => .etog (indexOf sub) a.toNat⟩,
   ⟨0x22, "RDE", .KA, fun sub a _ => .rde (indexOf sub) a.toNat⟩,
   ⟨0x23, "RDEW", .Z, fun _ _ _ => .rdew⟩,
   ⟨0x24, "EWCHK", .Z, fun _ _ _ => .ewchk⟩]

/-- The syndrome and flip rows of R74. -/
def syndromeRows : List OpcodeRow :=
  [⟨0x28, "SCLR", .Z, fun _ _ _ => .sclr⟩,
   ⟨0x29, "XACC", .K, fun sub _ _ => .xacc (indexOf sub)⟩,
   ⟨0x2A, "SYN", .Z, fun _ _ _ => .syn⟩,
   ⟨0x2B, "STOG", .A, fun _ a _ => .stog a.toNat⟩,
   ⟨0x2C, "RDSY", .A, fun _ a _ => .rdsy a.toNat⟩,
   ⟨0x2D, "RDSW", .Z, fun _ _ _ => .rdsw⟩,
   ⟨0x2E, "FLIP", .KA, fun sub a _ => .flip (indexOf sub) a.toNat⟩]

/-- The counter and ranking rows of R74. -/
def rankingRows : List OpcodeRow :=
  [⟨0x30, "CNT", .Z, fun _ _ _ => .cnt⟩,
   ⟨0x31, "GETC", .KA, fun sub a _ => .getc (indexOf sub) a.toNat⟩,
   ⟨0x32, "RDC", .KA, fun sub a _ => .rdc (indexOf sub) a.toNat⟩,
   ⟨0x38, "SELR", .LAB, fun sub a b => .selr (indexOf sub) a.toNat b.toNat⟩,
   ⟨0x39, "TOPK", .LA, fun sub a _ => .topk (indexOf sub) a.toNat⟩,
   ⟨0x3A, "FLIPL", .L, fun sub _ _ => .flipl (indexOf sub)⟩,
   ⟨0x3B, "RDL", .LA, fun sub a _ => .rdl (indexOf sub) a.toNat⟩,
   ⟨0x3C, "RDLN", .L, fun sub _ _ => .rdln (indexOf sub)⟩]

/-- The opcode map, R74. -/
def opcodeMap : List OpcodeRow :=
  systemRows ++ matrixRows ++ errorRows ++ syndromeRows ++ rankingRows

/-- The row of an `op` byte, if it has one (R74, R75). -/
def rowOfOp (op : Byte) : Option OpcodeRow := opcodeMap.find? fun r => r.op == op

/-- Why a word is no command (R77). -/
inductive DecodeError where
  /-- `op` is not in the map (R75). -/
  | opcode
  /-- A reserved bit is 1 (R76). -/
  | field
deriving DecidableEq, Repr

/-- Decoding, a total function of the word alone (R77). -/
def decode (cw : Word) : Except DecodeError Instr :=
  match rowOfOp (opField cw) with
  | none => .error .opcode
  | some r =>
    if cw &&& r.format.reserved != 0 then .error .field
    else .ok (r.build (subField cw) (aField cw) (bField cw))

/-- The `op` byte of a command (R74). -/
def Instr.opcode : Instr → Byte
  | .rdst _ => 0x01
  | .rdcfg _ => 0x02
  | .srst => 0x03
  | .nop => 0x04
  | .wrs _ _ _ _ => 0x10
  | .rds _ _ _ => 0x11
  | .trn _ _ => 0x12
  | .rdd _ _ _ => 0x13
  | .eclr => 0x20
  | .etog _ _ => 0x21
  | .rde _ _ => 0x22
  | .rdew => 0x23
  | .ewchk => 0x24
  | .sclr => 0x28
  | .xacc _ => 0x29
  | .syn => 0x2A
  | .stog _ => 0x2B
  | .rdsy _ => 0x2C
  | .rdsw => 0x2D
  | .flip _ _ => 0x2E
  | .cnt => 0x30
  | .getc _ _ => 0x31
  | .rdc _ _ => 0x32
  | .selr _ _ _ => 0x38
  | .topk _ _ => 0x39
  | .flipl _ => 0x3A
  | .rdl _ _ => 0x3B
  | .rdln _ => 0x3C

/-- The value of the bit `sel` (R73). -/
def Side.bit : Side → Nat
  | .columns => 0
  | .rows => 1

/-- The value of the bit `d` (R73). -/
def Direction.bit : Direction → Nat
  | .forward => 0
  | .backward => 1

/-- The field `sub = f << 4 | x`, or the whole selector in format S (R72, R79). -/
def Instr.subOperand : Instr → Nat
  | .rdst s => s
  | .rdcfg s => s
  | .srst => 0
  | .nop => 0
  | .wrs sel k _ _ => 16 * sel.bit + k
  | .rds sel k _ => 16 * sel.bit + k
  | .trn d k => 16 * d.bit + k
  | .rdd sel k _ => 16 * sel.bit + k
  | .eclr => 0
  | .etog k _ => k
  | .rde k _ => k
  | .rdew => 0
  | .ewchk => 0
  | .sclr => 0
  | .xacc k => k
  | .syn => 0
  | .stog _ => 0
  | .rdsy _ => 0
  | .rdsw => 0
  | .flip k _ => k
  | .cnt => 0
  | .getc k _ => k
  | .rdc k _ => k
  | .selr L _ _ => L
  | .topk L _ => L
  | .flipl L => L
  | .rdl L _ => L
  | .rdln L => L

/-- The field `a` (R72). -/
def Instr.aOperand : Instr → Nat
  | .rdst _ => 0
  | .rdcfg _ => 0
  | .srst => 0
  | .nop => 0
  | .wrs _ _ l _ => l
  | .rds _ _ l => l
  | .trn _ _ => 0
  | .rdd _ _ j => j
  | .eclr => 0
  | .etog _ j => j
  | .rde _ j => j
  | .rdew => 0
  | .ewchk => 0
  | .sclr => 0
  | .xacc _ => 0
  | .syn => 0
  | .stog j => j
  | .rdsy j => j
  | .rdsw => 0
  | .flip _ j => j
  | .cnt => 0
  | .getc _ j => j
  | .rdc _ j => j
  | .selr _ lo _ => lo
  | .topk _ K => K
  | .flipl _ => 0
  | .rdl _ i => i
  | .rdln _ => 0

/-- The field `b`: only `WRS` and `SELR` have one (R72). -/
def Instr.bOperand : Instr → Nat
  | .wrs _ _ _ p => p
  | .selr _ _ hi => hi
  | .rdst _ | .rdcfg _ | .srst | .nop | .rds _ _ _ | .trn _ _ | .rdd _ _ _ | .eclr | .etog _ _ | .rde _ _ | .rdew
  | .ewchk | .sclr | .xacc _ | .syn | .stog _ | .rdsy _ | .rdsw | .flip _ _ | .cnt | .getc _ _ | .rdc _ _ | .topk _ _
  | .flipl _ | .rdl _ _ | .rdln _ => 0

/-- The command word of an instruction (R79). An operand too wide for its field is cut to it; a well-formed
instruction has none (log entry 12). -/
def encode (i : Instr) : Word :=
  wordOf i.opcode (BitVec.ofNat 8 i.subOperand) (BitVec.ofNat 24 i.aOperand) (BitVec.ofNat 24 i.bOperand)

/-- A word as bytes, the byte of the lowest address first: little-endian (20_memory.md R52). -/
def bytesOfWord (w : Word) : List Byte :=
  [w.extractLsb' 0 8, w.extractLsb' 8 8, w.extractLsb' 16 8, w.extractLsb' 24 8,
   w.extractLsb' 32 8, w.extractLsb' 40 8, w.extractLsb' 48 8, w.extractLsb' 56 8]

/-- The word of eight bytes, the first the least significant (20_memory.md R52). -/
def wordOfBytes : List Byte → Option Word
  | [b0, b1, b2, b3, b4, b5, b6, b7] => some (b7 ++ b6 ++ b5 ++ b4 ++ b3 ++ b2 ++ b1 ++ b0)
  | _ => none

/-- Why bytes are no command: not one whole word (30_encoding.md R78), or a word that is no command. -/
inductive Rejection where
  | notOneWord
  | word (e : DecodeError)
deriving DecidableEq, Repr

/-- Decoding of a command word moved as bytes; total on any bytes (20_memory.md R52; log entry 16). -/
def decodeBytes (bs : List Byte) : Except Rejection Instr :=
  match wordOfBytes bs with
  | none => .error .notOneWord
  | some w =>
    match decode w with
    | .error e => .error (.word e)
    | .ok i => .ok i

/-- The command word of which spec/opcode_table.json gives the low `nbits` bits, the bits above being 0. -/
def tableWord (nbits w : Nat) : Word := BitVec.ofNat 64 (w % 2 ^ nbits)

/-- What the decoder reads from a table word, laid out as the bytes of 20_memory.md R52. -/
def decodeTableWord (nbits w : Nat) : Option Instr :=
  match decodeBytes (bytesOfWord (tableWord nbits w)) with
  | .ok i => some i
  | .error _ => none

end Sys2Proof
end

