-- ==== Sys2Proof/Machine/Algebra.lean ====
section
/-! DEFINITION. The pure functions of 40_block_algebra.md section 1 and the mathematical objects of 00_scope.md R13, R16,
R17. A sparse block is a list of positions, a dense vector a function on `[0, R)`; none of these is state. -/

namespace Sys2Proof.Machine

/-- Strictly increasing. -/
def increasing : List Nat → Bool
  | [] => true
  | [_] => true
  | p :: q :: ps => decide (p < q) && increasing (q :: ps)

/-- `valid(P)`: strictly increasing and below `R` (00_scope.md R13; the number of entries is `W` by construction). -/
def validSparse (R : Nat) (P : List Nat) : Bool := increasing P && P.all fun p => decide (p < R)

/-- `transpose(P)` in the index form of 40_block_algebra.md R91. -/
def transpose (R : Nat) : List Nat → List Nat
  | [] => []
  | p :: ps => if p = 0 then 0 :: ps.reverse.map (R - ·) else (p :: ps).reverse.map (R - ·)

/-- `dense(P)[j]` (R92). -/
def dense (P : List Nat) (j : Nat) : Bool := P.contains j

/-- `popcount(V)` over `[0, R)` (00_scope.md R11). -/
def popcount (R : Nat) (V : Nat → Bool) : Nat := (List.range R).countP V

/-- The XOR of a list of bits. -/
def xorAll (bs : List Bool) : Bool := bs.foldr Bool.xor false

/-- Element `j` of the window of `Y` at offset `x` (20_memory.md R56). -/
def window (R : Nat) (Y : Nat → Bool) (x j : Nat) : Bool := Y ((j + x) % R)

/-- `mulx(X, Y)[j]`, the GF(2) product in gather form (R93). -/
def mulx (R : Nat) (X : List Nat) (Y : Nat → Bool) (j : Nat) : Bool := xorAll (X.map fun x => window R Y x j)

/-- `muladd(X, Y)[j]`, its integer analogue (R94). -/
def muladd (R : Nat) (X : List Nat) (Y : Nat → Bool) (j : Nat) : Nat := (X.map fun x => (window R Y x j).toNat).sum

/-- Element `j` of the window at offset `x`, by the two passes of R95 (a): the no-wrap segment, the wrap-around one. -/
def windowTwoPass (R : Nat) (Y : Nat → Bool) (x j : Nat) : Bool := if j < R - x then Y (j + x) else Y (j + x - R)

/-- The doubled buffer `Y2` of R95 (b) and 10_state.md R40: `Y2[i] = Y2[i + R] = Y[i]`. -/
def doubled (R : Nat) (Y : Nat → Bool) (i : Nat) : Bool := if i < R then Y i else Y (i - R)

/-- Element `j` of the window at offset `x`, by the doubled buffer of R95 (b). -/
def windowDoubled (R : Nat) (Y : Nat → Bool) (x j : Nat) : Bool := doubled R Y (j + x)

/-- `(a - b) mod R` for `a, b < R`, without a negative number. -/
def subMod (R a b : Nat) : Nat := (a + R - b) % R

/-- The scatter form of R96: `XOR over p in P of Y[(j - p) mod R]`. -/
def mulxScatter (R : Nat) (P : List Nat) (Y : Nat → Bool) (j : Nat) : Bool := xorAll (P.map fun p => Y (subMod R j p))

/-- The scatter form of R96 with sums. -/
def muladdScatter (R : Nat) (P : List Nat) (Y : Nat → Bool) (j : Nat) : Nat := (P.map fun p => (Y (subMod R j p)).toNat).sum

/-- `H_k[a][b]` of a block whose column list is `col` (00_scope.md R16). -/
def Hbit (R : Nat) (col : List Nat) (a b : Nat) : Bool := col.contains (subMod R a b)

/-- Row `a` of `H_k` times the dense vector `e`: `XOR over b of H_k[a][b] * e[b]`. -/
def rowTimes (R : Nat) (col : List Nat) (e : Nat → Bool) (a : Nat) : Bool :=
  xorAll ((List.range R).map fun b => Hbit R col a b && e b)

/-- `(H * e^T)[a]` for the two blocks (00_scope.md R17). -/
def syndromeOf (R : Nat) (col0 col1 : List Nat) (e0 e1 : Nat → Bool) (a : Nat) : Bool :=
  Bool.xor (rowTimes R col0 e0 a) (rowTimes R col1 e1 a)

/-- `ctr(k, j, s)`: how many rows `a` have `H_k[a][j] = 1` and `s[a] = 1` (00_scope.md R17). -/
def counterOf (R : Nat) (col : List Nat) (j : Nat) (s : Nat → Bool) : Nat :=
  (List.range R).countP fun a => Hbit R col a j && s a

/-- The support of column `j` of `H_k`, in the order of the column list (00_scope.md R16; 41_error_syndrome.md R130). -/
def columnPattern (R : Nat) (col : List Nat) (j : Nat) : List Nat := col.map fun c => (j + c) % R

end Sys2Proof.Machine
end

