-- ==== Sys2Proof/Config.lean ====
section
/-! DEFINITION. What is fixed when the hardware is built: the three parameters and the constants (00_scope.md R5 to R8). -/

namespace Sys2Proof.Config

/-- The parameters of 00_scope.md R6: block length `R`, block weight `W`, configured error weight `T`. -/
structure Params where
  R : Nat
  W : Nat
  T : Nat
deriving DecidableEq, Repr

/-- The bounds of 00_scope.md R7. Outside them no SCK exists (93_implementation_defined.md U22). -/
abbrev Params.legal (p : Params) : Prop :=
  1 ≤ p.W ∧ p.W ≤ p.R ∧ 2 ≤ p.R ∧ p.R ≤ 2 ^ 23 - 1 ∧ p.T ≤ 2 * p.R

/-- `INDEX`, the number of circulant blocks (R5). -/
def INDEX : Nat := 2

/-- `NLIST`, the number of position lists (R8). -/
def NLIST : Nat := 3

/-- `VERSION`, returned by `RDCFG 2` (10_state.md R39). -/
def VERSION : Nat := 1

/-- `MAXC`, the largest 24-bit operand (R8). -/
def MAXC : Nat := 0xFFFFFF

/-- `N = INDEX * R`, the number of bit positions of the code (R8). -/
def Params.N (p : Params) : Nat := INDEX * p.R

/-- `LCAP = N`, the capacity of each list (R8). -/
def Params.LCAP (p : Params) : Nat := p.N

/-- The reference configuration of R6, the one instance the document gives. -/
def REF : Params := ⟨10163, 71, 134⟩

end Sys2Proof.Config
end

