-- ==== Sys2Proof/Machine/State.lean ====
section
/-! DEFINITION. The state of one SCK (10_state.md), the host's stream of events, and the state after reset (R44). -/

namespace Sys2Proof.Machine

open Sys2Proof

/-- A legal block index `k`, in {0, 1} (00_scope.md R5). -/
inductive Block where
  | b0
  | b1
deriving DecidableEq, Repr, Inhabited

/-- A legal list id `L`, in {0, 1, 2} (00_scope.md R8). -/
inductive ListId where
  | l0
  | l1
  | l2
deriving DecidableEq, Repr, Inhabited

/-- One thing per block. -/
structure Blocks (α : Type) where
  b0 : α
  b1 : α
deriving DecidableEq, Repr

/-- One thing per list. -/
structure Lists (α : Type) where
  l0 : α
  l1 : α
  l2 : α
deriving DecidableEq, Repr

/-- An element memory: (index, element) pairs, indices strictly rising, no element equal to the value an unlisted
element reads as (`Memory.wf` in Ops.lean; log entry 4). -/
abbrev Memory (α : Type) := List (Nat × α)

/-- A list entry `(k, j, c)` (10_state.md R35): the position in 24 bits as in R30, the counter a natural as in R34. -/
structure Entry where
  k : Block
  j : Reg24
  c : Nat
deriving DecidableEq, Repr, Inhabited

/-- The fault codes of 60_exceptions.md R180 other than `OK`; their numbers are `FaultCode.code`. -/
inductive FaultCode where
  | opcode
  | field
  | block
  | listid
  | range
  | sparse
  | weight
  | matrix
  | errvec
  | synd
  | ctr
  | list
  | faulted
deriving DecidableEq, Repr

/-- What the host can do to the SCK (00_scope.md R15): present a command word, or assert the reset input
(70_reset_and_hazards.md R200). -/
inductive HostEvent where
  | command (cw : Word)
  | resetInput
deriving DecidableEq, Repr

/-- The state. The fields from `ew` to `list` are the SCK's own, 10_state.md R20 to R37; `cfg` are the hardwired
parameters (log entry 1), `host` what the host does next (log entry 2), `resp` the response word on the port, none
when the last event gave none (log entry 3). -/
structure State where
  /-- The parameters, 00_scope.md R6. -/
  cfg : Config.Params
  /-- `EW`, R20. -/
  ew : Reg24
  /-- `SW`, R21. -/
  sw : Reg24
  /-- `LLEN[0..2]`, R23. -/
  llen : Lists Reg24
  /-- `MV[0..1]`, R25. -/
  mv : Blocks Bool
  /-- `EV`, R26. -/
  ev : Bool
  /-- `SV`, R27. -/
  sv : Bool
  /-- `CTV`, R28. -/
  ctv : Bool
  /-- `LV[0..2]`, R29. -/
  lv : Lists Bool
  /-- `FAULT`, R37. -/
  fault : Bool
  /-- `FCODE`, R37. -/
  fcode : Byte
  /-- `FCMD`, R37. -/
  fcmd : Word
  /-- `COL[k][l]` at index `l`, R30. -/
  col : Blocks (Memory Reg24)
  /-- `ROW[k][l]` at index `l`, R31. -/
  row : Blocks (Memory Reg24)
  /-- `ERR[k][j]` at index `j`, R32. -/
  err : Blocks (Memory Bool)
  /-- `SYN[j]` at index `j`, R33. -/
  syn : Memory Bool
  /-- `CTR[k][j]` at index `j`, R34. -/
  ctr : Blocks (Memory Nat)
  /-- `LIST[L][i]` at index `i`, R35. -/
  list : Lists (Memory Entry)
  /-- The host's events still to come, the next one first. -/
  host : List HostEvent
  /-- The response word on the command port. -/
  resp : Option Word
deriving DecidableEq, Repr

/-- Reasons the model could stop with. There are none: every contract violation of the SCK is an architected
transition into its fault state (60_exceptions.md R184), so every command has a next state. -/
inductive Fault where
deriving DecidableEq, Repr

/-- Reasons the model could refuse an instruction. -/
inductive Refusal where
  /-- Raised by `exec` for an instruction without a meaning; safe. No arm of `exec` raises it. -/
  | notModelled (mnemonic : String)
deriving DecidableEq, Repr

/-- The state after reset of a unit built with the parameters `p` (10_state.md R44): everything 0. -/
def State.resetOf (p : Config.Params) : State :=
  { cfg := p, ew := 0, sw := 0, llen := ⟨0, 0, 0⟩, mv := ⟨false, false⟩, ev := false, sv := false, ctv := false,
    lv := ⟨false, false, false⟩, fault := false, fcode := 0, fcmd := 0, col := ⟨[], []⟩, row := ⟨[], []⟩,
    err := ⟨[], []⟩, syn := [], ctr := ⟨[], []⟩, list := ⟨[], [], []⟩, host := [], resp := none }

/-- The machine after reset: the reference configuration (log entry 1), the host having presented nothing. -/
def State.reset : State := State.resetOf Config.REF

end Sys2Proof.Machine
end

