-- ==== Sys2Proof/Machine/Ops.lean ====
section
/-! DEFINITION. The named operations: element memories, responding, taking a fault (60_exceptions.md R184) and leaving the
fault state, the order of checks (R182), and the state changes that several commands share. -/

namespace Sys2Proof.Machine

open Sys2Proof

/-! ## Things held per block and per list -/

/-- The thing of block `k`. -/
def Blocks.get {α : Type} (p : Blocks α) : Block → α
  | .b0 => p.b0
  | .b1 => p.b1

/-- Replace the thing of block `k`. -/
def Blocks.set {α : Type} (p : Blocks α) (k : Block) (v : α) : Blocks α :=
  match k with
  | .b0 => { p with b0 := v }
  | .b1 => { p with b1 := v }

/-- The thing of list `L`. -/
def Lists.get {α : Type} (p : Lists α) : ListId → α
  | .l0 => p.l0
  | .l1 => p.l1
  | .l2 => p.l2

/-- Replace the thing of list `L`. -/
def Lists.set {α : Type} (p : Lists α) (L : ListId) (v : α) : Lists α :=
  match L with
  | .l0 => { p with l0 := v }
  | .l1 => { p with l1 := v }
  | .l2 => { p with l2 := v }

/-- The number of a block. -/
def Block.toNat : Block → Nat
  | .b0 => 0
  | .b1 => 1

/-- The number of a list. -/
def ListId.toNat : ListId → Nat
  | .l0 => 0
  | .l1 => 1
  | .l2 => 2

/-! ## Element memories (10_state.md section 3; log entry 4) -/

/-- What an element reads as that nothing has written since reset: 0, and `(0, 0, 0)` for a list entry (R44). -/
def resetValue {α : Type} [Inhabited α] : α := default

/-- Read one element. -/
def Memory.read {α : Type} [Inhabited α] : Memory α → Nat → α
  | [], _ => resetValue
  | (j, u) :: m, i => if i = j then u else Memory.read m i

/-- Write one element, keeping the canonical form. -/
def Memory.write {α : Type} [Inhabited α] [DecidableEq α] (m : Memory α) (i : Nat) (v : α) : Memory α :=
  match m with
  | [] => if v = resetValue then [] else [(i, v)]
  | (j, u) :: m' =>
    if i < j then (if v = resetValue then (j, u) :: m' else (i, v) :: (j, u) :: m')
    else if i = j then (if v = resetValue then m' else (i, v) :: m')
    else (j, u) :: Memory.write m' i v

/-- The memory of `n` elements whose element `i` is `f i`. -/
def Memory.ofFn {α : Type} [Inhabited α] [DecidableEq α] (n : Nat) (f : Nat → α) : Memory α :=
  (List.range n).filterMap fun i => if f i = resetValue then none else some (i, f i)

/-- Write consecutive elements from index `i` on. -/
def Memory.writeFrom {α : Type} [Inhabited α] [DecidableEq α] (m : Memory α) (i : Nat) : List α → Memory α
  | [] => m
  | v :: vs => Memory.writeFrom (m.write i v) (i + 1) vs

/-- Indices strictly rising from `lo` on and below `n`, no element equal to what an unlisted one reads as. -/
def Memory.wfFrom {α : Type} [Inhabited α] [DecidableEq α] (n : Nat) : Nat → Memory α → Bool
  | _, [] => true
  | lo, (i, v) :: m => decide (lo ≤ i) && decide (i < n) && decide (v ≠ resetValue) && Memory.wfFrom n (i + 1) m

/-- The canonical form of a memory of `n` elements. -/
def Memory.wf {α : Type} [Inhabited α] [DecidableEq α] (n : Nat) (m : Memory α) : Bool := Memory.wfFrom n 0 m

/-- Toggle one bit. -/
def Memory.toggle (m : Memory Bool) (i : Nat) : Memory Bool := m.write i (!(m.read i))

/-- Toggle the bits at the listed indices, one after the other. -/
def Memory.toggleAll (m : Memory Bool) : List Nat → Memory Bool
  | [] => m
  | i :: is => Memory.toggleAll (m.toggle i) is

/-! ## The command port -/

/-- End a command: its word is consumed and its response produced (00_scope.md R14, R15; 10_state.md R22). -/
def answer (rw : Word) (s : State) : State := { s with host := s.host.tail, resp := some rw }

/-- `respond(sub, a, b)`: status 0x00 (00_scope.md R11; 30_encoding.md R71). -/
def respond (sub : Byte) (a b : Reg24) (s : State) : State := answer (wordOf 0x00 sub a b) s

/-- A natural in a 24-bit field of a response or in a 24-bit register (log entry 5). -/
def num (n : Nat) : Reg24 := BitVec.ofNat 24 n

/-- A bit in a 24-bit field of a response: `zext_24`. -/
def bitNum (b : Bool) : Reg24 := num b.toNat

/-! ## Faults -/

/-- The codes of 60_exceptions.md R180. -/
def FaultCode.code : FaultCode → Byte
  | .opcode => 0x01
  | .field => 0x02
  | .block => 0x03
  | .listid => 0x04
  | .range => 0x05
  | .sparse => 0x06
  | .weight => 0x07
  | .matrix => 0x08
  | .errvec => 0x09
  | .synd => 0x0A
  | .ctr => 0x0B
  | .list => 0x0C
  | .faulted => 0xFF

/-- The writes of fault entry: the fault registers, and only when `FAULT = 0` (60_exceptions.md R184, R187). -/
def enterFault (e : FaultCode) (cw : Word) (s : State) : State :=
  if s.fault then s else { s with fault := true, fcode := e.code, fcmd := cw }

/-- `raise <E>(cw)`: fault entry and the response that carries the code (60_exceptions.md R184). -/
def raise (e : FaultCode) (cw : Word) (s : State) : State := answer (wordOf e.code 0x00 0 0) (enterFault e cw s)

/-- Reset: every piece of SCK state takes its value of 10_state.md R44. It is the transition of `SRST` and of the reset
input alike (70_reset_and_hazards.md R201) and the only way out of the fault state (60_exceptions.md R186). -/
def resetAll (s : State) : State := { State.resetOf s.cfg with host := s.host }

/-- The `FAULT` output (60_exceptions.md R189). -/
def State.faultOutput (s : State) : Bool := s.fault

/-- A condition that must hold, and the fault when it does not. -/
abbrev Check := Bool × FaultCode

/-- The fault of the first check that fails (60_exceptions.md R182). -/
def firstFailure : List Check → Option FaultCode
  | [] => none
  | (ok, e) :: cs => if ok then firstFailure cs else some e

/-- A command after the decode: its checks in order, then its effect, all writes in the effect (60_exceptions.md R182,
R183). The word a fault records is the command's own (R180); log entry 9. -/
def runCommand (i : Instr) (checks : List Check) (effect : State → State) (s : State) :
    Host.Outcome State Fault Refusal :=
  match firstFailure checks with
  | some e => .next (raise e (encode i) s)
  | none => .next (effect s)

/-- Step 1 of 60_exceptions.md R182: not in the fault state. -/
def notFaulted (s : State) : Check := (!s.fault, .faulted)

/-- Every command but `RDST`, `RDCFG`, `SRST`: refused in the fault state (60_exceptions.md R185). -/
def ordinary (i : Instr) (checks : List Check) (effect : State → State) (s : State) :
    Host.Outcome State Fault Refusal :=
  runCommand i (notFaulted s :: checks) effect s

/-- `RDST`, `RDCFG`, `SRST`: accepted in the fault state (60_exceptions.md R185). -/
def system (i : Instr) (checks : List Check) (effect : State → State) (s : State) :
    Host.Outcome State Fault Refusal :=
  runCommand i checks effect s

/-! ## Reading the state as the rules write it -/

/-- `ERR[k][j]`. -/
def State.errBit (s : State) (k : Block) (j : Nat) : Bool := (s.err.get k).read j

/-- `SYN[j]`. -/
def State.synBit (s : State) (j : Nat) : Bool := s.syn.read j

/-- `CTR[k][j]`. -/
def State.counter (s : State) (k : Block) (j : Nat) : Nat := (s.ctr.get k).read j

/-- `LIST[L][i]`. -/
def State.entry (s : State) (L : ListId) (i : Nat) : Entry := (s.list.get L).read i

/-- The memory a side names (30_encoding.md R73). -/
def State.sideMemory (s : State) (sel : Side) (k : Block) : Memory Reg24 :=
  match sel with
  | .columns => s.col.get k
  | .rows => s.row.get k

/-- `COL[k]` or `ROW[k]` as a sparse block of `W` positions (00_scope.md R13). -/
def State.sparse (s : State) (sel : Side) (k : Block) : List Nat :=
  (List.range s.cfg.W).map fun l => ((s.sideMemory sel k).read l).toNat

/-! ## State changes that several commands share -/

/-- Replace the sparse memory a side names. -/
def setSide (sel : Side) (k : Block) (m : Memory Reg24) (s : State) : State :=
  match sel with
  | .columns => { s with col := s.col.set k m }
  | .rows => { s with row := s.row.set k m }

/-- Set or clear `MV[k]` (10_state.md R25). -/
def setMatrixValid (k : Block) (v : Bool) (s : State) : State := { s with mv := s.mv.set k v }

/-- Toggle `ERR[k][j]` and adjust `EW` by one (41_error_syndrome.md R111, R130). -/
def toggleError (k : Block) (j : Nat) (s : State) : State :=
  { s with
    err := s.err.set k ((s.err.get k).toggle j),
    ew := if s.errBit k j then s.ew - 1 else s.ew + 1 }

/-- Toggle `SYN[j]` and adjust `SW` by one (41_error_syndrome.md R125). -/
def toggleSyndrome (j : Nat) (s : State) : State :=
  { s with
    syn := s.syn.toggle j,
    sw := if s.synBit j then s.sw - 1 else s.sw + 1 }

/-- Replace the syndrome by `V` and recompute its weight (41_error_syndrome.md R122, R123). -/
def loadSyndrome (V : Nat → Bool) (s : State) : State :=
  { s with
    syn := Memory.ofFn s.cfg.R V,
    sw := num (popcount s.cfg.R V) }

/-- `ctr(k, j, SYN)` against the syndrome as it is now (42_counters.md R141, R142). -/
def exactCounter (k : Block) (j : Nat) (s : State) : Nat := muladd s.cfg.R (s.sparse .columns k) s.synBit j

/-- XOR column `j` of `H_k` into `SYN` and change `SW` by `W - 2c` (41_error_syndrome.md R130); the sum is formed in
ordinary integers (00_scope.md R12). -/
def flipSyndrome (k : Block) (j : Nat) (s : State) : State :=
  { s with
    syn := s.syn.toggleAll (columnPattern s.cfg.R (s.sparse .columns k) j),
    sw := BitVec.ofInt 24 ((s.sw.toNat : Int) + s.cfg.W - 2 * exactCounter k j s) }

/-- The state change `flip(k, j)` of 41_error_syndrome.md R130; the value it returns is `exactCounter k j s`, formed
before any write. -/
def flip (k : Block) (j : Nat) (s : State) : State := flipSyndrome k j (toggleError k j s)

/-- Flip the positions of the entries one after the other (43_ranking.md R153). -/
def flipEntries : List Entry → State → State
  | [], s => s
  | e :: es, s => flipEntries es (flip e.k e.j.toNat s)

/-- The entries `0 .. LLEN[L]-1` of list `L`. -/
def State.entries (s : State) (L : ListId) : List Entry :=
  (List.range (s.llen.get L).toNat).map fun i => s.entry L i

/-- Write a selection to list `L`: its entries from index 0 on, its length, its flag; entries beyond keep their contents
(43_ranking.md R151, R152). -/
def writeList (L : ListId) (es : List Entry) (s : State) : State :=
  { s with
    list := s.list.set L ((s.list.get L).writeFrom 0 es),
    llen := s.llen.set L (num es.length),
    lv := s.lv.set L true }

end Sys2Proof.Machine
end

