-- ==== Sys2Proof/Machine/Flags.lean ====
section
/-! DEFINITION. The validity flags: what clears them (10_state.md R43), the word that reads them (R38), and the checks that
need them, in the order of 60_exceptions.md R182 step 6. -/

namespace Sys2Proof.Machine

open Sys2Proof

/-- `CTV <- 0; LV[0..2] <- 0`: what `SCLR`, `XACC` and `SYN` do (10_state.md R43). -/
def clearSnapshot (s : State) : State := { s with ctv := false, lv := ⟨false, false, false⟩ }

/-- `invalidate_derived()`: what `WRS`, `ECLR` and `ETOG` do (10_state.md R43). -/
def invalidateDerived (s : State) : State := { clearSnapshot s with sv := false }

/-- Set `EV` (10_state.md R26). -/
def setErrorValid (s : State) : State := { s with ev := true }

/-- Set `SV` (10_state.md R27). -/
def setSyndromeValid (s : State) : State := { s with sv := true }

/-- Set `CTV` (10_state.md R28). -/
def setCountersValid (s : State) : State := { s with ctv := true }

/-- One flag at its bit of `STATUS`. -/
def flagAt (b : Bool) (n : Nat) : Reg24 := if b then num (2 ^ n) else 0

/-- `STATUS` (10_state.md R38). -/
def State.status (s : State) : Reg24 :=
  flagAt (s.mv.get .b0) 0 ||| flagAt (s.mv.get .b1) 1 ||| flagAt s.ev 2 ||| flagAt s.sv 3 ||| flagAt s.ctv 4
    ||| flagAt (s.lv.get .l0) 5 ||| flagAt (s.lv.get .l1) 6 ||| flagAt (s.lv.get .l2) 7 ||| flagAt s.fault 8

/-- `MV[k] = 0` raises `E_MATRIX`. -/
def needMatrix (k : Block) (s : State) : Check := (s.mv.get k, .matrix)

/-- `EV = 0` raises `E_ERRVEC`. -/
def needError (s : State) : Check := (s.ev, .errvec)

/-- `SV = 0` raises `E_SYND`. -/
def needSyndrome (s : State) : Check := (s.sv, .synd)

/-- `CTV = 0` raises `E_CTR`. -/
def needCounters (s : State) : Check := (s.ctv, .ctr)

/-- `LV[L] = 0` raises `E_LIST`. -/
def needList (L : ListId) (s : State) : Check := (s.lv.get L, .list)

end Sys2Proof.Machine
end

