-- ==== Sys2Proof/Machine/Operands.lean ====
section
/-! DEFINITION. Operand forms (30_encoding.md R73): block indices, list ids and numeric operands, with the checks of
60_exceptions.md R182 steps 4 and 5. -/

namespace Sys2Proof.Machine

open Sys2Proof

/-- The block an index names; only asked where the index has been checked to be below 2. -/
def blockOf (k : Nat) : Block := if k = 0 then .b0 else .b1

/-- The list an id names; only asked where the id has been checked to be below 3. -/
def listOf (L : Nat) : ListId := if L = 0 then .l0 else if L = 1 then .l1 else .l2

/-- `k ≥ 2` raises `E_BLOCK` (step 4). -/
def legalBlock (k : Nat) : Check := (decide (k < Config.INDEX), .block)

/-- `L ≥ 3` raises `E_LISTID` (step 4). -/
def legalList (L : Nat) : Check := (decide (L < Config.NLIST), .listid)

/-- An operand not below its bound raises `E_RANGE` (step 5; for `RDL`, step 7). -/
def below (x bound : Nat) : Check := (decide (x < bound), .range)

/-- A count above its bound raises `E_RANGE` (step 5). -/
def atMost (x bound : Nat) : Check := (decide (x ≤ bound), .range)

end Sys2Proof.Machine
end

