-- ==== Sys2Proof/Machine/Counters.lean ====
section
/-! DEFINITION. The counter commands, 42_counters.md. -/

namespace Sys2Proof.Machine

open Sys2Proof

/-- All counters of block `k` against the current syndrome (R140). -/
def counterMemory (k : Block) (s : State) : Memory Nat := Memory.ofFn s.cfg.R fun j => exactCounter k j s

/-- Rebuild the snapshot from the current syndrome (R140). -/
def rebuildCounters (s : State) : State := { s with ctr := ⟨counterMemory .b0 s, counterMemory .b1 s⟩ }

/-- `CNT`, R140. -/
def execCnt (s : State) : Host.Outcome State Fault Refusal :=
  ordinary .cnt [needMatrix .b0 s, needMatrix .b1 s, needSyndrome s]
    (fun s => respond 0 0 0 (setCountersValid (rebuildCounters s))) s

/-- `GETC k, j`, R142. -/
def execGetc (k j : Nat) (s : State) : Host.Outcome State Fault Refusal :=
  ordinary (.getc k j) [legalBlock k, below j s.cfg.R, needMatrix (blockOf k) s, needSyndrome s]
    (fun s => respond 0 0 (num (exactCounter (blockOf k) j s)) s) s

/-- `RDC k, j`, R143. -/
def execRdc (k j : Nat) (s : State) : Host.Outcome State Fault Refusal :=
  ordinary (.rdc k j) [legalBlock k, below j s.cfg.R, needCounters s]
    (fun s => respond 0 0 (num (s.counter (blockOf k) j)) s) s

end Sys2Proof.Machine
end

