-- ==== Sys2Proof/Machine/ErrorVector.lean ====
section
/-! DEFINITION. The error-vector commands, 41_error_syndrome.md section 1. -/

namespace Sys2Proof.Machine

open Sys2Proof

/-- The error vector all zero, its weight 0 (R110). -/
def clearError (s : State) : State := { s with err := ⟨[], []⟩, ew := 0 }

/-- `ECLR`, R110. -/
def execEclr (s : State) : Host.Outcome State Fault Refusal :=
  ordinary .eclr [] (fun s => respond 0 0 0 (invalidateDerived (setErrorValid (clearError s)))) s

/-- `ETOG k, j`, R111: the response is the new bit and the new weight. -/
def execEtog (k j : Nat) (s : State) : Host.Outcome State Fault Refusal :=
  ordinary (.etog k j) [legalBlock k, below j s.cfg.R, needError s]
    (fun s =>
      let t := invalidateDerived (toggleError (blockOf k) j s)
      respond 0 (bitNum (t.errBit (blockOf k) j)) t.ew t) s

/-- `RDE k, j`, R112. -/
def execRde (k j : Nat) (s : State) : Host.Outcome State Fault Refusal :=
  ordinary (.rde k j) [legalBlock k, below j s.cfg.R, needError s]
    (fun s => respond 0 0 (bitNum (s.errBit (blockOf k) j)) s) s

/-- `RDEW`, R113. -/
def execRdew (s : State) : Host.Outcome State Fault Refusal :=
  ordinary .rdew [needError s] (fun s => respond 0 0 s.ew s) s

/-- The data check of `EWCHK`: `EW ≠ T` raises `E_WEIGHT` (R114). -/
def weightMatches (s : State) : Check := (decide (s.ew.toNat = s.cfg.T), .weight)

/-- `EWCHK`, R114. -/
def execEwchk (s : State) : Host.Outcome State Fault Refusal :=
  ordinary .ewchk [needError s, weightMatches s] (fun s => respond 0 0 s.ew s) s

end Sys2Proof.Machine
end

