-- ==== Sys2Proof/Machine/Matrix.lean ====
section
/-! DEFINITION. The matrix commands, 40_block_algebra.md section 2. -/

namespace Sys2Proof.Machine

open Sys2Proof

/-- `WRS sel, k, l, p`, R97. -/
def execWrs (sel : Side) (k l p : Nat) (s : State) : Host.Outcome State Fault Refusal :=
  ordinary (.wrs sel k l p) [legalBlock k, below l s.cfg.W, below p s.cfg.R]
    (fun s =>
      respond 0 0 0 (invalidateDerived (setMatrixValid (blockOf k) false
        (setSide sel (blockOf k) ((s.sideMemory sel (blockOf k)).write l (num p)) s)))) s

/-- `RDS sel, k, l`, R98. -/
def execRds (sel : Side) (k l : Nat) (s : State) : Host.Outcome State Fault Refusal :=
  ordinary (.rds sel k l) [legalBlock k, below l s.cfg.W]
    (fun s => respond 0 0 ((s.sideMemory sel (blockOf k)).read l) s) s

/-- The list `TRN` reads (R99). -/
def sourceSide : Direction → Side
  | .forward => .columns
  | .backward => .rows

/-- The list `TRN` writes (R99). -/
def destinationSide : Direction → Side
  | .forward => .rows
  | .backward => .columns

/-- A sparse block as a memory of `W` elements. -/
def sparseMemory (W : Nat) (P : List Nat) : Memory Reg24 := Memory.ofFn W fun l => num (P.getD l 0)

/-- The data check of `TRN`: a source list that is not valid raises `E_SPARSE` (R99). -/
def sourceValid (d : Direction) (k : Block) (s : State) : Check :=
  (validSparse s.cfg.R (s.sparse (sourceSide d) k), .sparse)

/-- `TRN d, k`, R99. -/
def execTrn (d : Direction) (k : Nat) (s : State) : Host.Outcome State Fault Refusal :=
  ordinary (.trn d k) [legalBlock k, sourceValid d (blockOf k) s]
    (fun s =>
      respond 0 0 0 (setMatrixValid (blockOf k) true
        (setSide (destinationSide d) (blockOf k)
          (sparseMemory s.cfg.W (transpose s.cfg.R (s.sparse (sourceSide d) (blockOf k)))) s))) s

/-- `RDD sel, k, j`, R100. -/
def execRdd (sel : Side) (k j : Nat) (s : State) : Host.Outcome State Fault Refusal :=
  ordinary (.rdd sel k j) [legalBlock k, below j s.cfg.R, needMatrix (blockOf k) s]
    (fun s => respond 0 0 (bitNum (dense (s.sparse sel (blockOf k)) j)) s) s

end Sys2Proof.Machine
end

