-- ==== Sys2Proof/Machine/Ranking.lean ====
section
/-! DEFINITION. The ranking commands, 43_ranking.md. -/

namespace Sys2Proof.Machine

open Sys2Proof

/-- The linear index `ℓ(k, j) = k * R + j` (00_scope.md R8). -/
def linearIndex (R : Nat) (k : Block) (j : Nat) : Nat := k.toNat * R + j

/-- The entries of one block in scan order (R150). -/
def scanBlock (k : Block) (s : State) : List Entry :=
  (List.range s.cfg.R).map fun j => ⟨k, num j, s.counter k j⟩

/-- All `N` positions in scan order, each with its snapshot counter (R150). -/
def scan (s : State) : List Entry := scanBlock .b0 s ++ scanBlock .b1 s

/-- The positions whose counter lies in `[lo, hi]`, in scan order (R151). -/
def selected (lo hi : Nat) (s : State) : List Entry := (scan s).filter fun e => decide (lo ≤ e.c) && decide (e.c ≤ hi)

/-- `SELR L, lo, hi`, R151. -/
def execSelr (L lo hi : Nat) (s : State) : Host.Outcome State Fault Refusal :=
  ordinary (.selr L lo hi) [legalList L, needCounters s]
    (fun s => respond 0 0 (num (selected lo hi s).length) (writeList (listOf L) (selected lo hi s) s)) s

/-- The order `≺` of R152: larger counter first, then smaller linear index. -/
def ranksBefore (R : Nat) (e f : Entry) : Bool :=
  decide (f.c < e.c) || (decide (e.c = f.c) && decide (linearIndex R e.k e.j.toNat < linearIndex R f.k f.j.toNat))

/-- Insert an entry into a list sorted by `≺`. -/
def insertRanked (R : Nat) (e : Entry) : List Entry → List Entry
  | [] => [e]
  | f :: fs => if ranksBefore R e f then e :: f :: fs else f :: insertRanked R e fs

/-- Sort by `≺`. -/
def sortRanked (R : Nat) : List Entry → List Entry
  | [] => []
  | e :: es => insertRanked R e (sortRanked R es)

/-- The first `K` of all positions sorted by `≺` (R152). -/
def topRanked (K : Nat) (s : State) : List Entry := (sortRanked s.cfg.R (scan s)).take K

/-- `TOPK L, K`, R152. -/
def execTopk (L K : Nat) (s : State) : Host.Outcome State Fault Refusal :=
  ordinary (.topk L K) [legalList L, atMost K s.cfg.N, needCounters s]
    (fun s => respond 0 0 (num K) (writeList (listOf L) (topRanked K s) s)) s

/-- `FLIPL L`, R153. -/
def execFlipl (L : Nat) (s : State) : Host.Outcome State Fault Refusal :=
  ordinary (.flipl L)
    [legalList L, needMatrix .b0 s, needMatrix .b1 s, needError s, needSyndrome s, needList (listOf L) s]
    (fun s =>
      let t := flipEntries (s.entries (listOf L)) s
      respond 0 (t.llen.get (listOf L)) t.sw t) s

/-- `RDL L, i`, R154. -/
def execRdl (L i : Nat) (s : State) : Host.Outcome State Fault Refusal :=
  ordinary (.rdl L i) [legalList L, needList (listOf L) s, below i (s.llen.get (listOf L)).toNat]
    (fun s =>
      let e := s.entry (listOf L) i
      respond (BitVec.ofNat 8 e.k.toNat) e.j (num e.c) s) s

/-- `RDLN L`, R155. -/
def execRdln (L : Nat) (s : State) : Host.Outcome State Fault Refusal :=
  ordinary (.rdln L) [legalList L, needList (listOf L) s] (fun s => respond 0 0 (s.llen.get (listOf L)) s) s

end Sys2Proof.Machine
end

