-- ==== Sys2Proof/Machine/Syndrome.lean ====
section
/-! DEFINITION. The syndrome commands and the single flip, 41_error_syndrome.md sections 2 and 3. -/

namespace Sys2Proof.Machine

open Sys2Proof

/-- The syndrome all zero, its weight 0 (R120). -/
def clearSyndrome (s : State) : State := { s with syn := [], sw := 0 }

/-- `SCLR`, R120. -/
def execSclr (s : State) : Host.Outcome State Fault Refusal :=
  ordinary .sclr [] (fun s => respond 0 0 0 (clearSnapshot (setSyndromeValid (clearSyndrome s)))) s

/-- `mulx(ROW[k], ERR[k])[j]` (R122, R123). -/
def blockProduct (k : Block) (s : State) (j : Nat) : Bool := mulx s.cfg.R (s.sparse .rows k) (s.errBit k) j

/-- `XACC k`, R122. -/
def execXacc (k : Nat) (s : State) : Host.Outcome State Fault Refusal :=
  ordinary (.xacc k) [legalBlock k, needMatrix (blockOf k) s, needError s, needSyndrome s]
    (fun s =>
      let t := clearSnapshot (loadSyndrome (fun j => Bool.xor (s.synBit j) (blockProduct (blockOf k) s j)) s)
      respond 0 0 t.sw t) s

/-- `SYN`, R123. -/
def execSyn (s : State) : Host.Outcome State Fault Refusal :=
  ordinary .syn [needMatrix .b0 s, needMatrix .b1 s, needError s]
    (fun s =>
      let t := clearSnapshot (setSyndromeValid
        (loadSyndrome (fun j => Bool.xor (blockProduct .b0 s j) (blockProduct .b1 s j)) s))
      respond 0 0 t.sw t) s

/-- `STOG j`, R125: the response is the new bit and the new weight. -/
def execStog (j : Nat) (s : State) : Host.Outcome State Fault Refusal :=
  ordinary (.stog j) [below j s.cfg.R, needSyndrome s]
    (fun s =>
      let t := toggleSyndrome j s
      respond 0 (bitNum (t.synBit j)) t.sw t) s

/-- `RDSY j`, R126. -/
def execRdsy (j : Nat) (s : State) : Host.Outcome State Fault Refusal :=
  ordinary (.rdsy j) [below j s.cfg.R, needSyndrome s] (fun s => respond 0 0 (bitNum (s.synBit j)) s) s

/-- `RDSW`, R127. -/
def execRdsw (s : State) : Host.Outcome State Fault Refusal :=
  ordinary .rdsw [needSyndrome s] (fun s => respond 0 0 s.sw s) s

/-- `FLIP k, j`, R131: the response is the counter at the time of the flip and the new weight. -/
def execFlip (k j : Nat) (s : State) : Host.Outcome State Fault Refusal :=
  ordinary (.flip k j)
    [legalBlock k, below j s.cfg.R, needMatrix (blockOf k) s, needError s, needSyndrome s]
    (fun s => respond 0 (num (exactCounter (blockOf k) j s)) (flip (blockOf k) j s).sw (flip (blockOf k) j s)) s

end Sys2Proof.Machine
end

