-- ==== Sys2Proof/Machine/System.lean ====
section
/-! DEFINITION. The system commands, 44_system.md. -/

namespace Sys2Proof.Machine

open Sys2Proof

/-- The two result fields of `RDST s` (R166). -/
def statusWords (s : State) : Nat → Reg24 × Reg24
  | 0 => (s.status, s.fcode.setWidth 24)
  | 1 => (aField s.fcmd, bField s.fcmd)
  | _ => (0, (s.fcmd.extractLsb' 48 16).setWidth 24)

/-- `RDST s`, R166. -/
def execRdst (sel : Nat) (s : State) : Host.Outcome State Fault Refusal :=
  system (.rdst sel) [below sel 3] (fun s => respond 0 (statusWords s sel).1 (statusWords s sel).2 s) s

/-- The two result fields of `RDCFG s` (R168). -/
def configWords (p : Config.Params) : Nat → Reg24 × Reg24
  | 0 => (num p.R, num p.W)
  | 1 => (num p.T, num Config.INDEX)
  | _ => (num Config.NLIST, num Config.VERSION)

/-- `RDCFG s`, R168. -/
def execRdcfg (sel : Nat) (s : State) : Host.Outcome State Fault Refusal :=
  system (.rdcfg sel) [below sel 3] (fun s => respond 0 (configWords s.cfg sel).1 (configWords s.cfg sel).2 s) s

/-- `SRST`, R169. -/
def execSrst (s : State) : Host.Outcome State Fault Refusal :=
  system .srst [] (fun s => respond 0 0 0 (resetAll s)) s

/-- `NOP`, R165. -/
def execNop (s : State) : Host.Outcome State Fault Refusal :=
  ordinary .nop [] (fun s => respond 0 0 0 s) s

end Sys2Proof.Machine
end

