-- ==== Sys2Proof/Machine/Dispatch.lean ====
section
/-! DEFINITION. One arm per command. -/

namespace Sys2Proof.Machine

open Sys2Proof

def exec (i : Instr) (s : State) : Host.Outcome State Fault Refusal :=
  match i with
  -- 44_system.md
  | .rdst sel => Sys2Proof.Machine.execRdst sel s
  | .rdcfg sel => Sys2Proof.Machine.execRdcfg sel s
  | .srst => Sys2Proof.Machine.execSrst s
  | .nop => Sys2Proof.Machine.execNop s
  -- 40_block_algebra.md
  | .wrs sel k l p => Sys2Proof.Machine.execWrs sel k l p s
  | .rds sel k l => Sys2Proof.Machine.execRds sel k l s
  | .trn d k => Sys2Proof.Machine.execTrn d k s
  | .rdd sel k j => Sys2Proof.Machine.execRdd sel k j s
  -- 41_error_syndrome.md
  | .eclr => Sys2Proof.Machine.execEclr s
  | .etog k j => Sys2Proof.Machine.execEtog k j s
  | .rde k j => Sys2Proof.Machine.execRde k j s
  | .rdew => Sys2Proof.Machine.execRdew s
  | .ewchk => Sys2Proof.Machine.execEwchk s
  | .sclr => Sys2Proof.Machine.execSclr s
  | .xacc k => Sys2Proof.Machine.execXacc k s
  | .syn => Sys2Proof.Machine.execSyn s
  | .stog j => Sys2Proof.Machine.execStog j s
  | .rdsy j => Sys2Proof.Machine.execRdsy j s
  | .rdsw => Sys2Proof.Machine.execRdsw s
  | .flip k j => Sys2Proof.Machine.execFlip k j s
  -- 42_counters.md
  | .cnt => Sys2Proof.Machine.execCnt s
  | .getc k j => Sys2Proof.Machine.execGetc k j s
  | .rdc k j => Sys2Proof.Machine.execRdc k j s
  -- 43_ranking.md
  | .selr L lo hi => Sys2Proof.Machine.execSelr L lo hi s
  | .topk L K => Sys2Proof.Machine.execTopk L K s
  | .flipl L => Sys2Proof.Machine.execFlipl L s
  | .rdl L n => Sys2Proof.Machine.execRdl L n s
  | .rdln L => Sys2Proof.Machine.execRdln L s

end Sys2Proof.Machine
end

