-- ==== Sys2Proof/Machine/Port.lean ====
section
/-! DEFINITION. The command port: what the SCK does with the host's next event (00_scope.md R14, R15; 60_exceptions.md
R182 steps 1 to 3; 70_reset_and_hazards.md R200). -/

namespace Sys2Proof.Machine

open Sys2Proof

/-- The `op` bytes accepted in the fault state: `RDST`, `RDCFG`, `SRST` (60_exceptions.md R182 step 1). -/
def acceptedInFault (op : Byte) : Bool := op == 0x01 || op == 0x02 || op == 0x03

/-- The fault of a word that is no command. -/
def decodeFault : DecodeError → FaultCode
  | .opcode => .opcode
  | .field => .field

/-- The fault of a word that is no command, after the refusal that looks at `op` alone (60_exceptions.md R182 steps 1 to 3). -/
def wordFault (e : DecodeError) (cw : Word) (s : State) : FaultCode :=
  if s.fault && !acceptedInFault (opField cw) then .faulted else decodeFault e

/-- Execute the command word on the port (60_exceptions.md R182). For a word that is a command, step 1 is the first check
of its own meaning (`ordinary`). -/
def executeWord (cw : Word) (s : State) : Host.Outcome State Fault Refusal :=
  match decode cw with
  | .ok i => exec i s
  | .error e => .next (raise (wordFault e cw s) cw s)

/-- The reset input (70_reset_and_hazards.md R200): the reset state, no response, whatever the SCK was doing
(60_exceptions.md R190). -/
def resetByInput (s : State) : State := { resetAll s with host := s.host.tail }

/-- What the SCK does next: with no event from the host it is idle and holds all state (60_exceptions.md R196). -/
def serveHost (s : State) : Host.Outcome State Fault Refusal :=
  match s.host with
  | [] => .next s
  | .resetInput :: _ => .next (resetByInput s)
  | .command cw :: _ => executeWord cw s

/-- The host presents a command word next, before whatever it was to do. -/
def presentWord (cw : Word) (s : State) : State := { s with host := .command cw :: s.host }

end Sys2Proof.Machine
end

