-- ==== Sys2Proof/Machine/Asm.lean ====
section
/-! DEFINITION. The assembler spelling of command words (30_encoding.md R79), the pseudo-instructions (R80) and
disassembly (R81). Text is a list of characters; how freely blanks may stand is log entry 14. -/

namespace Sys2Proof.Machine

open Sys2Proof

/-! ## Numbers -/

/-- The value of a digit in a base up to 16. -/
def digitValue (base : Nat) (c : Char) : Option Nat :=
  let n := c.toNat
  let v := if 48 ≤ n && n ≤ 57 then n - 48 else if 65 ≤ n && n ≤ 70 then n - 55 else if 97 ≤ n && n ≤ 102 then n - 87 else 16
  if v < base then some v else none

/-- The value of a digit string, most significant first, after the value `acc` of the digits before it. -/
def digitsValue (base : Nat) (acc : Nat) : List Char → Option Nat
  | [] => some acc
  | c :: cs =>
    match digitValue base c with
    | none => none
    | some v => digitsValue base (base * acc + v) cs

/-- A decimal or `0x` hexadecimal number (R79), or the name `MAXC` of 00_scope.md R8 that the programs of
95_test_vectors.md write in a number's place. -/
def parseNumber : List Char → Option Nat
  | [] => none
  | ['0', 'x'] => none
  | ['M', 'A', 'X', 'C'] => some Config.MAXC
  | '0' :: 'x' :: cs => digitsValue 16 0 cs
  | cs => digitsValue 10 0 cs

/-- The character of a digit below 16, a hexadecimal one in upper case (log entry 14). -/
def digitChar (v : Nat) : Char := if v < 10 then Char.ofNat (48 + v) else Char.ofNat (55 + v)

/-- The last `n` digits of a number, most significant first. -/
def fixedDigits (base : Nat) : Nat → Nat → List Char
  | 0, _ => []
  | n + 1, v => fixedDigits base n (v / base) ++ [digitChar (v % base)]

/-- A number below `10 ^ 8` in decimal, without leading zeros. -/
def decimal (v : Nat) : List Char :=
  match (fixedDigits 10 8 v).dropWhile (· == '0') with
  | [] => ['0']
  | ds => ds

/-! ## Operands by format (R72, R79) -/

/-- The three numeric fields of a command word. -/
structure Fields where
  sub : Nat
  a : Nat
  b : Nat
deriving DecidableEq, Repr

/-- `sel`: `C` or `R`. -/
def parseSide : List Char → Option Nat
  | ['C'] => some 0
  | ['R'] => some 1
  | _ => none

/-- `d`: `F` or `B`. -/
def parseDirection : List Char → Option Nat
  | ['F'] => some 0
  | ['B'] => some 1
  | _ => none

/-- A list id: `L` and its number, or an alias (R79). -/
def parseList (cs : List Char) : Option Nat :=
  if cs == "BLACK".toList then some 0
  else if cs == "GRAY".toList then some 1
  else if cs == "TOP".toList then some 2
  else match cs with
    | 'L' :: ds => parseNumber ds
    | _ => none

/-- An operand that fits a field of `2 ^ width` values. -/
def inField (width : Nat) (o : Option Nat) : Option Nat :=
  match o with
  | none => none
  | some n => if n < 2 ^ width then some n else none

/-- `sub = f << 4 | x` of an optional flag and an index. -/
def subOf (f x : Option Nat) : Option Nat :=
  match f, inField 4 x with
  | some f, some x => some (16 * f + x)
  | _, _ => none

/-- The three fields, if each has a value that fits. -/
def fieldsOf (sub a b : Option Nat) : Option Fields :=
  match inField 8 sub, inField 24 a, inField 24 b with
  | some sub, some a, some b => some ⟨sub, a, b⟩
  | _, _, _ => none

/-- The fields of an operand list, in the order of R79. -/
def parseOperands : Format → List (List Char) → Option Fields
  | .Z, [] => some ⟨0, 0, 0⟩
  | .S, [s] => fieldsOf (parseNumber s) (some 0) (some 0)
  | .MW, [f, k, l, p] => fieldsOf (subOf (parseSide f) (parseNumber k)) (parseNumber l) (parseNumber p)
  | .MA, [f, k, a] => fieldsOf (subOf (parseSide f) (parseNumber k)) (parseNumber a) (some 0)
  | .MT, [f, k] => fieldsOf (subOf (parseDirection f) (parseNumber k)) (some 0) (some 0)
  | .K, [k] => fieldsOf (subOf (some 0) (parseNumber k)) (some 0) (some 0)
  | .KA, [k, a] => fieldsOf (subOf (some 0) (parseNumber k)) (parseNumber a) (some 0)
  | .A, [a] => fieldsOf (some 0) (parseNumber a) (some 0)
  | .LAB, [L, a, b] => fieldsOf (subOf (some 0) (parseList L)) (parseNumber a) (parseNumber b)
  | .LA, [L, a] => fieldsOf (subOf (some 0) (parseList L)) (parseNumber a) (some 0)
  | .L, [L] => fieldsOf (subOf (some 0) (parseList L)) (some 0) (some 0)
  | _, _ => none

/-- The spelling of `sel`. -/
def sideChars (sub : Nat) : List Char := if sub / 16 = 0 then ['C'] else ['R']

/-- The spelling of `d`. -/
def directionChars (sub : Nat) : List Char := if sub / 16 = 0 then ['F'] else ['B']

/-- The operands a format prints, in the order of R79. DESIGN CHOICE (log entry 14): R79 gives a list id two spellings and a
number two bases, and R81 does not say which is printed; here a list id is printed `L<n>`, never by its alias, and an operand
in decimal. -/
def printOperands (f : Format) (sub a b : Nat) : List (List Char) :=
  let x := decimal (sub % 16)
  match f with
  | .Z => []
  | .S => [decimal sub]
  | .MW => [sideChars sub, x, decimal a, decimal b]
  | .MA => [sideChars sub, x, decimal a]
  | .MT => [directionChars sub, x]
  | .K => [x]
  | .KA => [x, decimal a]
  | .A => [decimal a]
  | .LAB => ['L' :: x, decimal a, decimal b]
  | .LA => ['L' :: x, decimal a]
  | .L => ['L' :: x]

/-! ## Lines -/

/-- Operands separated by commas. -/
def joinOperands : List (List Char) → List Char
  | [] => []
  | [o] => o
  | o :: os => o ++ [',', ' '] ++ joinOperands os

/-- Disassembly of one word (R81): the mnemonic and operands of a legal word, `.word` and the number of any other.
DESIGN CHOICE (log entry 14): operands are parted by a comma and one blank, and the number of `.word` has sixteen hexadecimal
digits, `A` to `F` in upper case. -/
def disassemble (cw : Word) : List Char :=
  match decode cw, rowOfOp (opField cw) with
  | .ok _, some r =>
    match printOperands r.format (subField cw).toNat (aField cw).toNat (bField cw).toNat with
    | [] => r.mnemonic.toList
    | os => r.mnemonic.toList ++ [' '] ++ joinOperands os
  | _, _ => ".word 0x".toList ++ fixedDigits 16 16 cw.toNat

/-- The text before a comment (R79). -/
def withoutComment (cs : List Char) : List Char := cs.takeWhile (· != '#')

/-- The text without its blanks and parentheses: neither carries meaning inside an operand list (R79, R80). -/
def withoutBlanks (cs : List Char) : List Char := cs.filter fun c => c != ' ' && c != '(' && c != ')'

/-- Cut at the commas; `acc` holds the characters of the current piece. -/
def splitCommas (acc : List Char) : List Char → List (List Char)
  | [] => [acc]
  | c :: cs => if c = ',' then acc :: splitCommas [] cs else splitCommas (acc ++ [c]) cs

/-- The operand list of a line's text after its mnemonic. -/
def operandsOf (cs : List Char) : List (List Char) :=
  match withoutBlanks cs with
  | [] => []
  | ds => splitCommas [] ds

/-- The row of a mnemonic (R74). -/
def rowOfMnemonic (m : List Char) : Option OpcodeRow := opcodeMap.find? fun r => r.mnemonic.toList == m

/-- A pseudo-instruction (R80). -/
inductive Pseudo where
  | wrc (k l p : Nat)
  | wrr (k l p : Nat)
  | ldcol (k : Nat) (ps : List Nat)
  | lderr (bits : List (Nat × Nat))
  | selge (L th : Nat)
  | selgray (L th D : Nat)
  | selall (L : Nat)
deriving DecidableEq, Repr

/-- `WRS C, k, l, p_l` for the positions from index `l` on. -/
def writePositions (k : Nat) (l : Nat) : List Nat → List Instr
  | [] => []
  | p :: ps => .wrs .columns k l p :: writePositions k (l + 1) ps

/-- The expansion of a pseudo-instruction (R80), `LDCOL` and `LDERR` for as many positions as they are given (log entry 14). -/
def Pseudo.expand : Pseudo → List Instr
  | .wrc k l p => [.wrs .columns k l p]
  | .wrr k l p => [.wrs .rows k l p]
  | .ldcol k ps => writePositions k 0 ps ++ [.trn .forward k]
  | .lderr bits => .eclr :: bits.map fun b => .etog b.1 b.2
  | .selge L th => [.selr L th Config.MAXC]
  | .selgray L th D => if th = 0 then [.selr L 1 0] else [.selr L (th - D) (th - 1)]
  | .selall L => [.selr L 0 Config.MAXC]

/-- All operands as numbers, or none. -/
def parseNumbers : List (List Char) → Option (List Nat)
  | [] => some []
  | o :: os =>
    match parseNumber o, parseNumbers os with
    | some n, some ns => some (n :: ns)
    | _, _ => none

/-- Numbers taken two at a time. -/
def pairUp : List Nat → Option (List (Nat × Nat))
  | [] => some []
  | [_] => none
  | a :: b :: ns =>
    match pairUp ns with
    | some ps => some ((a, b) :: ps)
    | none => none

/-- The pseudo-instruction of a mnemonic and its operands (R80). DESIGN CHOICE (log entry 14): R80 writes `LDCOL` with exactly
`W` positions; the assembler has no `W` and takes any number of them, none too. `LDERR` likewise takes any number of pairs. -/
def parsePseudo (m : List Char) (os : List (List Char)) : Option Pseudo :=
  if m == "WRC".toList then
    match parseNumbers os with
    | some [k, l, p] => some (.wrc k l p)
    | _ => none
  else if m == "WRR".toList then
    match parseNumbers os with
    | some [k, l, p] => some (.wrr k l p)
    | _ => none
  else if m == "LDCOL".toList then
    match parseNumbers os with
    | some (k :: ps) => some (.ldcol k ps)
    | _ => none
  else if m == "LDERR".toList then
    match parseNumbers os with
    | some ns => (pairUp ns).map .lderr
    | none => none
  else if m == "SELGE".toList then
    match os with
    | [L, th] =>
      match parseList L, parseNumber th with
      | some L, some th => some (.selge L th)
      | _, _ => none
    | _ => none
  else if m == "SELGRAY".toList then
    match os with
    | [L, th, D] =>
      match parseList L, parseNumber th, parseNumber D with
      | some L, some th, some D => some (.selgray L th D)
      | _, _, _ => none
    | _ => none
  else if m == "SELALL".toList then
    match os with
    | [L] => (parseList L).map .selall
    | _ => none
  else none

/-- The words of instructions that have an encoding. -/
def encodeAll (is : List Instr) : Option (List Word) :=
  if is.all Instr.wellFormed then some (is.map encode) else none

/-- The words of a line: none for a blank or comment line, one for a command or `.word`, several for a
pseudo-instruction; no result where the line is no legal line (R79, R80). -/
def assembleLine (line : List Char) : Option (List Word) :=
  let text := (withoutComment line).dropWhile (· == ' ')
  let m := text.takeWhile (· != ' ')
  let os := operandsOf (text.dropWhile (· != ' '))
  if m.isEmpty then some []
  else if m == ".word".toList then
    match os with
    | [w] => (inField 64 (parseNumber w)).map fun n => [BitVec.ofNat 64 n]
    | _ => none
  else
    match rowOfMnemonic m with
    | some r =>
      (parseOperands r.format os).map fun f =>
        [wordOf r.op (BitVec.ofNat 8 f.sub) (BitVec.ofNat 24 f.a) (BitVec.ofNat 24 f.b)]
    | none =>
      match parsePseudo m os with
      | some p => encodeAll p.expand
      | none => none

end Sys2Proof.Machine
end

