-- ==== Sys2Proof/Machine/Units.lean ====
section
/-! DEFINITION. Several SCKs: the product of independent units, each with its own host stream (60_exceptions.md R194). -/

namespace Sys2Proof.Machine

open Sys2Proof

/-- A system of units; nothing is shared (R194). -/
abbrev Units := List State

/-- Unit `u` takes a step, the others stand still. A unit that is not there leaves the system as it is. -/
def stepUnit (u : Nat) (us : Units) : Host.Outcome Units Fault Refusal :=
  match us[u]? with
  | none => .next us
  | some s =>
    match step s with
    | .next t => .next (us.set u t)
    | .fault r => .fault r
    | .refused r => .refused r

end Sys2Proof.Machine
end

