-- ==== Sys2Proof/Safety.lean ====
section
/-! DEFINITION. What statements about the machine speak of: the SCK's own part of the state, the invariant of 10_state.md
R45, and the fault table of 60_exceptions.md R181 transcribed on its own. -/

namespace Sys2Proof

/-- The commands that change no state when they succeed (20_memory.md R54). -/
def Instr.readsOnly : Instr → Bool
  | .rds _ _ _ | .rdd _ _ _ | .rde _ _ | .rdew | .rdsy _ | .rdsw | .getc _ _ | .rdc _ _ | .rdl _ _ | .rdln _ | .rdst _
  | .rdcfg _ | .nop => true
  | .srst | .wrs _ _ _ _ | .trn _ _ | .eclr | .etog _ _ | .ewchk | .sclr | .xacc _ | .syn | .stog _ | .flip _ _ | .cnt
  | .selr _ _ _ | .topk _ _ | .flipl _ => false

/-- Every operand of a command lies in its static range (60_exceptions.md R182 steps 4 and 5). -/
def Instr.operandsLegal (p : Config.Params) : Instr → Bool
  | .rdst sel | .rdcfg sel => decide (sel < 3)
  | .srst | .nop | .eclr | .rdew | .ewchk | .sclr | .syn | .rdsw | .cnt => true
  | .wrs _ k l q => decide (k < 2 ∧ l < p.W ∧ q < p.R)
  | .rds _ k l => decide (k < 2 ∧ l < p.W)
  | .trn _ k | .xacc k => decide (k < 2)
  | .rdd _ k j | .etog k j | .rde k j | .flip k j | .getc k j | .rdc k j => decide (k < 2 ∧ j < p.R)
  | .stog j | .rdsy j => decide (j < p.R)
  | .selr L _ _ | .flipl L | .rdl L _ | .rdln L => decide (L < 3)
  | .topk L K => decide (L < 3 ∧ K ≤ 2 * p.R)

end Sys2Proof

namespace Sys2Proof.Machine

open Sys2Proof

/-- The SCK without the port: the host's stream and the response word taken away (00_scope.md R14). -/
def State.sck (s : State) : State := { s with host := [], resp := none }

/-- The canonical form of every element memory, each with the number of elements 20_memory.md R50 gives it. -/
structure State.MemoriesWf (s : State) : Prop where
  col : ∀ k, (s.col.get k).wf s.cfg.W = true
  row : ∀ k, (s.row.get k).wf s.cfg.W = true
  err : ∀ k, (s.err.get k).wf s.cfg.R = true
  syn : s.syn.wf s.cfg.R = true
  ctr : ∀ k, (s.ctr.get k).wf s.cfg.R = true
  list : ∀ L, (s.list.get L).wf s.cfg.N = true

/-- `MV[k] = 1` means: both lists of block `k` are valid and each is the transpose of the other (10_state.md R25). -/
structure State.MatrixOk (s : State) (k : Block) : Prop where
  columns : validSparse s.cfg.R (s.sparse .columns k) = true
  rows : validSparse s.cfg.R (s.sparse .rows k) = true
  dual : s.sparse .rows k = transpose s.cfg.R (s.sparse .columns k)

/-- `LV[L] = 1` means: as many entries as `LLEN[L]` says, their positions in range and pairwise distinct (10_state.md R29,
R35), taken from a snapshot that is still valid (R45 (f); log entry 13). -/
structure State.ListOk (s : State) (L : ListId) : Prop where
  length : (s.llen.get L).toNat ≤ s.cfg.N
  inRange : ∀ e ∈ s.entries L, e.j.toNat < s.cfg.R ∧ e.c ≤ s.cfg.W
  distinct : ((s.entries L).map fun e => (e.k, e.j)).Nodup
  snapshot : s.ctv = true

/-- The invariant of 10_state.md R45, clauses (a) to (g), with the parameter bounds of 00_scope.md R7 and the canonical
form of the memories. -/
structure State.Inv (s : State) : Prop where
  parameters : s.cfg.legal
  memories : s.MemoriesWf
  /-- (a) -/
  positions : ∀ sel k l, l < s.cfg.W → ((s.sideMemory sel k).read l).toNat < s.cfg.R
  /-- (b) -/
  matrix : ∀ k, s.mv.get k = true → s.MatrixOk k
  /-- (c) -/
  errorWeight : s.ev = true → s.ew.toNat = popcount s.cfg.R (s.errBit .b0) + popcount s.cfg.R (s.errBit .b1)
  /-- (d) -/
  syndromeWeight : s.sv = true → s.sw.toNat = popcount s.cfg.R s.synBit
  /-- (e) -/
  counters : s.ctv = true →
    (∀ k j, j < s.cfg.R → s.counter k j ≤ s.cfg.W) ∧ s.mv.get .b0 = true ∧ s.mv.get .b1 = true ∧ s.sv = true
  /-- (f) -/
  lists : ∀ L, s.lv.get L = true → s.ListOk L
  /-- (g), fault state left. -/
  unfaulted : s.fault = false → s.fcode = 0 ∧ s.fcmd = 0
  /-- (g), fault state. -/
  faulted : s.fault = true → 0x01 ≤ s.fcode.toNat ∧ s.fcode.toNat ≤ 0x0C

/-- The whole next state of a command word `cw` that faults with code `e`: the first fault is recorded, nothing else of the
SCK changes, the response carries the code (60_exceptions.md R184, R187). -/
def State.afterFault (s : State) (e : Byte) (cw : Word) : State :=
  { s with
    fault := true,
    fcode := if s.fault then s.fcode else e,
    fcmd := if s.fault then s.fcmd else cw,
    host := s.host.tail,
    resp := some (wordOf e 0x00 0 0) }

/-- A command answers the fault code `e` and has no other effect. -/
def Traps (i : Instr) (s : State) (e : Byte) : Prop := exec i s = .next (s.afterFault e (encode i))

/-- The whole next state of a command that responds with the result fields `sub`, `a`, `b` and changes nothing else of the
SCK (00_scope.md R11). -/
def State.answering (s : State) (sub : Byte) (a b : Reg24) : State :=
  { s with host := s.host.tail, resp := some (wordOf 0x00 sub a b) }

/-- The `op` values that 30_encoding.md R75 lists as illegal. -/
def IllegalOp (n : Nat) : Prop :=
  n = 0x00 ∨ (0x05 ≤ n ∧ n ≤ 0x0F) ∨ (0x14 ≤ n ∧ n ≤ 0x1F) ∨ (0x25 ≤ n ∧ n ≤ 0x27) ∨ n = 0x2F
    ∨ (0x33 ≤ n ∧ n ≤ 0x37) ∨ (0x3D ≤ n ∧ n ≤ 0xFF)

/-- The bit assignment of `STATUS` (10_state.md R38). -/
def State.statusBit (s : State) : Nat → Bool
  | 0 => s.mv.b0
  | 1 => s.mv.b1
  | 2 => s.ev
  | 3 => s.sv
  | 4 => s.ctv
  | 5 => s.lv.l0
  | 6 => s.lv.l1
  | 7 => s.lv.l2
  | 8 => s.fault
  | _ => false

/-- A row of 60_exceptions.md R181: the code of the first condition that holds, 0x00 when none does. -/
def firstCode : List (Bool × Byte) → Byte
  | [] => 0x00
  | (bad, code) :: rest => if bad then code else firstCode rest

/-- The table of 60_exceptions.md R181 with the refusal of the fault state (R182 step 1): the status a command answers. The
columns are the table's, a condition that holds is a fault. -/
def expectedStatus (i : Instr) (s : State) : Byte :=
  let faulted := (s.fault, (0xFF : Byte))
  let block (k : Nat) := (decide (2 ≤ k), (0x03 : Byte))
  let list (L : Nat) := (decide (3 ≤ L), (0x04 : Byte))
  let range (bad : Prop) [Decidable bad] := (decide bad, (0x05 : Byte))
  let matrix (k : Block) := (!s.mv.get k, (0x08 : Byte))
  let errvec := (!s.ev, (0x09 : Byte))
  let synd := (!s.sv, (0x0A : Byte))
  let ctr := (!s.ctv, (0x0B : Byte))
  let listFlag (L : ListId) := (!s.lv.get L, (0x0C : Byte))
  let R := s.cfg.R
  let W := s.cfg.W
  match i with
  | .rdst sel => firstCode [range (3 ≤ sel)]
  | .rdcfg sel => firstCode [range (3 ≤ sel)]
  | .srst => firstCode []
  | .nop => firstCode [faulted]
  | .wrs _ k l p => firstCode [faulted, block k, range (W ≤ l ∨ R ≤ p)]
  | .rds _ k l => firstCode [faulted, block k, range (W ≤ l)]
  | .trn .forward k =>
    firstCode [faulted, block k, (!validSparse R (s.sparse .columns (blockOf k)), 0x06)]
  | .trn .backward k =>
    firstCode [faulted, block k, (!validSparse R (s.sparse .rows (blockOf k)), 0x06)]
  | .rdd _ k j => firstCode [faulted, block k, range (R ≤ j), matrix (blockOf k)]
  | .eclr => firstCode [faulted]
  | .etog k j => firstCode [faulted, block k, range (R ≤ j), errvec]
  | .rde k j => firstCode [faulted, block k, range (R ≤ j), errvec]
  | .rdew => firstCode [faulted, errvec]
  | .ewchk => firstCode [faulted, errvec, (decide (s.ew.toNat ≠ s.cfg.T), 0x07)]
  | .sclr => firstCode [faulted]
  | .xacc k => firstCode [faulted, block k, matrix (blockOf k), errvec, synd]
  | .syn => firstCode [faulted, matrix .b0, matrix .b1, errvec]
  | .stog j => firstCode [faulted, range (R ≤ j), synd]
  | .rdsy j => firstCode [faulted, range (R ≤ j), synd]
  | .rdsw => firstCode [faulted, synd]
  | .flip k j => firstCode [faulted, block k, range (R ≤ j), matrix (blockOf k), errvec, synd]
  | .cnt => firstCode [faulted, matrix .b0, matrix .b1, synd]
  | .getc k j => firstCode [faulted, block k, range (R ≤ j), matrix (blockOf k), synd]
  | .rdc k j => firstCode [faulted, block k, range (R ≤ j), ctr]
  | .selr L _ _ => firstCode [faulted, list L, ctr]
  | .topk L K => firstCode [faulted, list L, range (2 * R < K), ctr]
  | .flipl L => firstCode [faulted, list L, matrix .b0, matrix .b1, errvec, synd, listFlag (listOf L)]
  | .rdl L n => firstCode [faulted, list L, listFlag (listOf L), range ((s.llen.get (listOf L)).toNat ≤ n)]
  | .rdln L => firstCode [faulted, list L, listFlag (listOf L)]

/-- The status of each command issued alone after reset, with operands in range (70_reset_and_hazards.md R202). -/
def statusAfterReset (p : Config.Params) : Instr → Byte
  | .rdst _ | .rdcfg _ | .srst | .nop | .eclr | .sclr | .wrs _ _ _ _ | .rds _ _ _ => 0x00
  | .rdd _ _ _ | .xacc _ | .syn | .flip _ _ | .cnt | .getc _ _ | .flipl _ => 0x08
  | .etog _ _ | .rde _ _ | .rdew | .ewchk => 0x09
  | .stog _ | .rdsy _ | .rdsw => 0x0A
  | .rdc _ _ | .selr _ _ _ | .topk _ _ => 0x0B
  | .rdl _ _ | .rdln _ => 0x0C
  | .trn _ _ => if p.W = 1 then 0x00 else 0x06

/-- A row of spec/opcode_table.json: its match and mask columns. -/
structure TableRow where
  mnemonic : String
  matchBits : Word
  maskBits : Word
deriving DecidableEq, Repr

/-- The first fourteen rows of spec/opcode_table.json. -/
def tableRowsLow : List TableRow :=
  [⟨"RDST", 0x0100000000000000, 0xFF00FFFFFFFFFFFF⟩,
   ⟨"RDCFG", 0x0200000000000000, 0xFF00FFFFFFFFFFFF⟩,
   ⟨"SRST", 0x0300000000000000, 0xFFFFFFFFFFFFFFFF⟩,
   ⟨"NOP", 0x0400000000000000, 0xFFFFFFFFFFFFFFFF⟩,
   ⟨"WRS", 0x1000000000000000, 0xFFE0000000000000⟩,
   ⟨"RDS", 0x1100000000000000, 0xFFE0000000FFFFFF⟩,
   ⟨"TRN", 0x1200000000000000, 0xFFE0FFFFFFFFFFFF⟩,
   ⟨"RDD", 0x1300000000000000, 0xFFE0000000FFFFFF⟩,
   ⟨"ECLR", 0x2000000000000000, 0xFFFFFFFFFFFFFFFF⟩,
   ⟨"ETOG", 0x2100000000000000, 0xFFF0000000FFFFFF⟩,
   ⟨"RDE", 0x2200000000000000, 0xFFF0000000FFFFFF⟩,
   ⟨"RDEW", 0x2300000000000000, 0xFFFFFFFFFFFFFFFF⟩,
   ⟨"EWCHK", 0x2400000000000000, 0xFFFFFFFFFFFFFFFF⟩,
   ⟨"SCLR", 0x2800000000000000, 0xFFFFFFFFFFFFFFFF⟩]

/-- The last fourteen rows of spec/opcode_table.json. -/
def tableRowsHigh : List TableRow :=
  [⟨"XACC", 0x2900000000000000, 0xFFF0FFFFFFFFFFFF⟩,
   ⟨"SYN", 0x2A00000000000000, 0xFFFFFFFFFFFFFFFF⟩,
   ⟨"STOG", 0x2B00000000000000, 0xFFFF000000FFFFFF⟩,
   ⟨"RDSY", 0x2C00000000000000, 0xFFFF000000FFFFFF⟩,
   ⟨"RDSW", 0x2D00000000000000, 0xFFFFFFFFFFFFFFFF⟩,
   ⟨"FLIP", 0x2E00000000000000, 0xFFF0000000FFFFFF⟩,
   ⟨"CNT", 0x3000000000000000, 0xFFFFFFFFFFFFFFFF⟩,
   ⟨"GETC", 0x3100000000000000, 0xFFF0000000FFFFFF⟩,
   ⟨"RDC", 0x3200000000000000, 0xFFF0000000FFFFFF⟩,
   ⟨"SELR", 0x3800000000000000, 0xFFF0000000000000⟩,
   ⟨"TOPK", 0x3900000000000000, 0xFFF0000000FFFFFF⟩,
   ⟨"FLIPL", 0x3A00000000000000, 0xFFF0FFFFFFFFFFFF⟩,
   ⟨"RDL", 0x3B00000000000000, 0xFFF0000000FFFFFF⟩,
   ⟨"RDLN", 0x3C00000000000000, 0xFFF0FFFFFFFFFFFF⟩]

/-- spec/opcode_table.json, row by row; independent of the decoder. -/
def tableRows : List TableRow := tableRowsLow ++ tableRowsHigh

end Sys2Proof.Machine
end

