-- ==== Sys2Proof/Certificates/Slice0/Obligations.lean ====
section
/-! DEFINITION. The statements for the provers. A statement about a command quantifies over legal block indices and list ids as
`Block` and `ListId` and says apart what an illegal one does. -/

open Sys2Proof Sys2Proof.Machine

/-! ## Encoding (30_encoding.md, 20_memory.md) -/

/-- Decoding gives back every well-formed command, with every operand at every value its field admits (R70, R72, R73, R79). -/
def Obligations.DecodeEncodeRoundTrip : Prop :=
  ∀ i : Instr, i.wellFormed = true → decode (encode i) = .ok i

/-- A word that is a command is the encoding of that command and of no other (R77, R81). -/
def Obligations.EncodeDecodeRoundTrip : Prop :=
  ∀ (cw : Word) (i : Instr), decode cw = .ok i → i.wellFormed = true ∧ encode i = cw

/-- R75: the illegal opcodes, and the fault of a word that has one, whatever its other fields. -/
def Obligations.IllegalOpcodesFault : Prop :=
  (∀ cw : Word, decode cw = .error .opcode ↔ IllegalOp (opField cw).toNat) ∧
  decode 0x0000000000000000 = .error .opcode ∧ decode 0xFFFFFFFFFFFFFFFF = .error .opcode ∧
  ∀ (s : State) (cw : Word) (rest : List HostEvent), s.fault = false → s.host = .command cw :: rest →
    IllegalOp (opField cw).toNat → step s = .next (s.afterFault 0x01 cw)

/-- A legal opcode with a reserved bit set faults with `E_FIELD` (R76). The reserved bits are those of the mask column of
spec/opcode_table.json outside the opcode. -/
def Obligations.ReservedFieldsFault : Prop :=
  ∀ (s : State) (cw : Word) (rest : List HostEvent) (r : TableRow), s.fault = false → s.host = .command cw :: rest →
    r ∈ tableRows → opField cw = opField r.matchBits → cw &&& r.maskBits ≠ r.matchBits →
    step s = .next (s.afterFault 0x02 cw)

/-- The decoder accepts the words that a row of spec/opcode_table.json matches, as that row's command, and no word is matched
by two rows (R74, R77). -/
def Obligations.DecodeAgreesWithOpcodeTable : Prop :=
  (∀ (cw : Word) (r : TableRow), r ∈ tableRows → cw &&& r.maskBits = r.matchBits →
    ∃ (i : Instr) (o : OpcodeRow), decode cw = .ok i ∧ rowOfOp i.opcode = some o ∧ o.mnemonic = r.mnemonic) ∧
  (∀ (cw : Word) (i : Instr), decode cw = .ok i → ∃ r ∈ tableRows, cw &&& r.maskBits = r.matchBits) ∧
  (∀ (cw : Word) (r r' : TableRow), r ∈ tableRows → r' ∈ tableRows → cw &&& r.maskBits = r.matchBits →
    cw &&& r'.maskBits = r'.matchBits → r.mnemonic = r'.mnemonic)

/-- One word of each family, written out in the rules' own examples. -/
def Obligations.SampleWordsDecode : Prop :=
  decode 0x0102000000000000 = .ok (.rdst 2) ∧
  decode 0x1001000002000009 = .ok (.wrs .columns 1 2 9) ∧
  decode 0x1110000001000000 = .ok (.rds .rows 0 1) ∧
  decode 0x1211000000000000 = .ok (.trn .backward 1) ∧
  decode 0x2101000009000000 = .ok (.etog 1 9) ∧
  decode 0x2B00000001000000 = .ok (.stog 1) ∧
  decode 0x3101000009000000 = .ok (.getc 1 9) ∧
  decode 0x3800000003FFFFFF = .ok (.selr 0 3 0xFFFFFF)

/-- A word moved as bytes has bits 7 to 0 at the lowest address, and comes back the same (R52). -/
def Obligations.WordBytesLittleEndian : Prop :=
  ∀ w : Word,
    (∀ n, n < 8 → (bytesOfWord w)[n]? = some (w.extractLsb' (8 * n) 8)) ∧ (bytesOfWord w).length = 8 ∧
    wordOfBytes (bytesOfWord w) = some w

/-- The expansions of the pseudo-instructions (R80), and the two lines that R79 gives with their words. With `W` positions the
clause for `LDCOL` is R80's; that it holds for any other number too is the model's choice (log entry 14). -/
def Obligations.PseudoInstructionsExpand : Prop :=
  (∀ k l p, (Pseudo.wrc k l p).expand = [.wrs .columns k l p]) ∧
  (∀ k l p, (Pseudo.wrr k l p).expand = [.wrs .rows k l p]) ∧
  (∀ k ps, (Pseudo.ldcol k ps).expand =
    (List.range ps.length).map (fun l => Instr.wrs .columns k l (ps.getD l 0)) ++ [.trn .forward k]) ∧
  (∀ bits, (Pseudo.lderr bits).expand = .eclr :: bits.map fun b => .etog b.1 b.2) ∧
  (∀ L th, (Pseudo.selge L th).expand = [.selr L th 0xFFFFFF]) ∧
  (∀ L D, (Pseudo.selgray L 0 D).expand = [.selr L 1 0]) ∧
  (∀ L th D, 1 ≤ th → (Pseudo.selgray L th D).expand = [.selr L (max ((th : Int) - D) 0).toNat (th - 1)]) ∧
  (∀ L, (Pseudo.selall L).expand = [.selr L 0 0xFFFFFF]) ∧
  assembleLine "WRS C, 1, 2, 9".toList = some [0x1001000002000009] ∧
  assembleLine "TRN B, 1".toList = some [0x1211000000000000]

/-! ## The step (00_scope.md, 60_exceptions.md, 70_reset_and_hazards.md) -/

/-- The step executes the command on the port. `exec` itself consumes the word. -/
def Obligations.StepRunsDecodedCommand : Prop :=
  ∀ (s : State) (cw : Word) (rest : List HostEvent) (i : Instr), s.host = .command cw :: rest → decode cw = .ok i →
    step s = exec i s

/-- The reset input puts every piece of SCK state to its reset value and produces no response (R200). The state `s` stands
before a command, or before one that the reset abandons (log entry 8). -/
def Obligations.ResetInputResets : Prop :=
  ∀ (s : State) (rest : List HostEvent), s.host = .resetInput :: rest →
    ∃ t, step s = .next t ∧ t.sck = State.resetOf s.cfg ∧ t.host = rest ∧ t.resp = none

/-- Every step ends in a next state and keeps the parameters: a command word is consumed and answered by exactly one response
(R15), and with nothing from the host the SCK holds all state (R196). -/
def Obligations.EveryStepAnswers : Prop :=
  ∀ s : State, ∃ t, step s = .next t ∧ t.cfg = s.cfg ∧
    (s.host = [] → t = s) ∧
    (∀ (cw : Word) (rest : List HostEvent), s.host = .command cw :: rest → t.host = rest ∧ ∃ rw, t.resp = some rw)

/-- Steps of two different units of a system commute: nothing is shared between units (R194). -/
def Obligations.UnitsStepIndependently : Prop :=
  ∀ (us us1 us2 : Units) (u v : Nat), u ≠ v → stepUnit u us = .next us1 → stepUnit v us1 = .next us2 →
    us1[v]? = us[v]? ∧ ∃ us1', stepUnit v us = .next us1' ∧ stepUnit u us1' = .next us2

/-- What a command does and answers depends on the SCK's own state alone: not on what the host does afterwards, nor on what
was answered before (00_scope.md R14). -/
def Obligations.ResponseDependsOnlyOnSck : Prop :=
  ∀ (s s' t t' : State) (cw : Word) (rest rest' : List HostEvent), s.host = .command cw :: rest →
    s'.host = .command cw :: rest' → s.sck = s'.sck → step s = .next t → step s' = .next t' →
    t.sck = t'.sck ∧ t.resp = t'.resp

/-! ## Faults (60_exceptions.md) -/

/-- R183, R184, R187: a command word that answers a code other than 0 has no effect but fault entry, which writes the fault
registers only outside the fault state, and its other response fields are 0. -/
def Obligations.FaultEntryIsPrecise : Prop :=
  ∀ (s t : State) (cw rw : Word) (rest : List HostEvent), s.host = .command cw :: rest → step s = .next t →
    t.resp = some rw → opField rw ≠ 0x00 →
    rw = wordOf (opField rw) 0x00 0 0 ∧
    (s.fault = false →
      t = { s with fault := true, fcode := opField rw, fcmd := cw, host := rest, resp := some rw }) ∧
    (s.fault = true → t = { s with host := rest, resp := some rw })

/-- R181 with the order of checks of R182: the status of every word in every state. -/
def Obligations.StatusFollowsFaultTable : Prop :=
  ∀ (s : State) (cw : Word) (rest : List HostEvent), s.host = .command cw :: rest →
    ∃ (t : State) (rw : Word), step s = .next t ∧ t.resp = some rw ∧
      ((s.fault = true ∧ opField cw ≠ 0x01 ∧ opField cw ≠ 0x02 ∧ opField cw ≠ 0x03) → opField rw = 0xFF) ∧
      (¬ (s.fault = true ∧ opField cw ≠ 0x01 ∧ opField cw ≠ 0x02 ∧ opField cw ≠ 0x03) →
        ((∀ r ∈ tableRows, opField cw ≠ opField r.matchBits) → opField rw = 0x01) ∧
        (∀ r ∈ tableRows, opField cw = opField r.matchBits → cw &&& r.maskBits ≠ r.matchBits → opField rw = 0x02) ∧
        (∀ i, decode cw = .ok i → opField rw = expectedStatus i s))

/-- R185: in the fault state every word but `RDST`, `RDCFG`, `SRST` is refused without any change; `RDST` and `RDCFG` work. -/
def Obligations.FaultStateRefuses : Prop :=
  ∀ s : State, s.fault = true →
    (∀ (cw : Word) (rest : List HostEvent), s.host = .command cw :: rest → opField cw ≠ 0x01 → opField cw ≠ 0x02 →
      opField cw ≠ 0x03 → step s = .next { s with host := rest, resp := some 0xFF00000000000000 }) ∧
    (∀ sel, sel < 3 → (∃ a b, exec (.rdst sel) s = .next (s.answering 0 a b)) ∧
      ∃ a b, exec (.rdcfg sel) s = .next (s.answering 0 a b))

/-- R186: only `SRST` and the reset input leave the fault state, and both clear all state. -/
def Obligations.OnlyResetLeavesFaultState : Prop :=
  ∀ s t : State, s.fault = true → step s = .next t → t.fault = false →
    (∃ rest, s.host = .resetInput :: rest ∨ s.host = .command 0x0300000000000000 :: rest) ∧
    t.sck = State.resetOf s.cfg

/-- The status of a response is one of the fourteen values of R180, and `FCODE` stays one of 0x00 to 0x0C. -/
def Obligations.FaultCodesAreTheListed : Prop :=
  ∀ s t : State, step s = .next t →
    (s.fcode.toNat ≤ 0x0C → t.fcode.toNat ≤ 0x0C) ∧
    ∀ (cw rw : Word) (rest : List HostEvent), s.host = .command cw :: rest → t.resp = some rw →
      (opField rw).toNat ≤ 0x0C ∨ opField rw = 0xFF

/-- What each command answers as the first one after reset, its operands in range. The list is the one the spec infers in
70_reset_and_hazards.md section 1 ("every other command faults, each with the first flag fault of its check order"). -/
def Obligations.StatusStraightAfterReset : Prop :=
  ∀ (p : Config.Params) (i : Instr), p.legal → i.operandsLegal p = true →
    ∃ (t : State) (rw : Word), exec i (State.resetOf p) = .next t ∧ t.resp = some rw ∧
      opField rw = statusAfterReset p i ∧ (i = .rdst 0 → rw = 0) ∧ (∀ sel k l, i = .rds sel k l → rw = 0)

/-! ## What may change what -/

/-- Each memory and each weight or length register is written by the commands that 10_state.md sections 1 and 3 name for it,
and by `SRST`. -/
def Obligations.MemoriesWrittenOnlyByTheirCommands : Prop :=
  ∀ (i : Instr) (s t : State), exec i s = .next t →
    (t.col = s.col ∨ match i with | .wrs .columns _ _ _ | .trn .backward _ | .srst => True | _ => False) ∧
    (t.row = s.row ∨ match i with | .wrs .rows _ _ _ | .trn .forward _ | .srst => True | _ => False) ∧
    (t.err = s.err ∨ match i with | .eclr | .etog _ _ | .flip _ _ | .flipl _ | .srst => True | _ => False) ∧
    (t.syn = s.syn ∨
      match i with | .sclr | .stog _ | .xacc _ | .syn | .flip _ _ | .flipl _ | .srst => True | _ => False) ∧
    (t.ctr = s.ctr ∨ match i with | .cnt | .srst => True | _ => False) ∧
    (t.list = s.list ∨ match i with | .selr _ _ _ | .topk _ _ | .srst => True | _ => False) ∧
    (t.ew = s.ew ∨ match i with | .eclr | .etog _ _ | .flip _ _ | .flipl _ | .srst => True | _ => False) ∧
    (t.sw = s.sw ∨
      match i with | .sclr | .stog _ | .xacc _ | .syn | .flip _ _ | .flipl _ | .srst => True | _ => False) ∧
    (t.llen = s.llen ∨ match i with | .selr _ _ _ | .topk _ _ | .srst => True | _ => False)

/-- A validity flag changes only at the commands that 10_state.md sections 2 and 6 name for it, in the direction they name. -/
def Obligations.FlagsChangeOnlyByTheirCommands : Prop :=
  ∀ (i : Instr) (s t : State), exec i s = .next t →
    (∀ k, t.mv.get k ≠ s.mv.get k →
      match i with
      | .trn _ n => n = k.toNat ∧ t.mv.get k = true
      | .wrs _ n _ _ => n = k.toNat ∧ t.mv.get k = false
      | .srst => t.mv.get k = false
      | _ => False) ∧
    (t.ev ≠ s.ev →
      match i with
      | .eclr => t.ev = true
      | .srst => t.ev = false
      | _ => False) ∧
    (t.sv ≠ s.sv →
      match i with
      | .sclr | .syn => t.sv = true
      | .wrs _ _ _ _ | .eclr | .etog _ _ | .srst => t.sv = false
      | _ => False) ∧
    (t.ctv ≠ s.ctv →
      match i with
      | .cnt => t.ctv = true
      | .wrs _ _ _ _ | .eclr | .etog _ _ | .sclr | .xacc _ | .syn | .srst => t.ctv = false
      | _ => False) ∧
    (∀ L, t.lv.get L ≠ s.lv.get L →
      match i with
      | .selr n _ _ | .topk n _ => n = L.toNat ∧ t.lv.get L = true
      | .wrs _ _ _ _ | .eclr | .etog _ _ | .sclr | .xacc _ | .syn | .srst => t.lv.get L = false
      | _ => False)

/-- The read commands change no SCK state when they succeed, and repeating one gives the same response (20_memory.md R54). -/
def Obligations.ReadsChangeNothing : Prop :=
  ∀ (i : Instr) (s t u : State) (rw : Word), i.readsOnly = true → exec i s = .next t → t.resp = some rw →
    opField rw = 0x00 →
    t = { s with host := s.host.tail, resp := some rw } ∧ (exec i t = .next u → u.resp = some rw)

/-! ## System commands (44_system.md) -/

/-- R165. -/
def Obligations.NopDoesNothing : Prop :=
  ∀ s : State,
    (s.fault = false → exec .nop s = .next (s.answering 0 0 0)) ∧
    (s.fault = true → exec .nop s = .next { s with host := s.host.tail, resp := some 0xFF00000000000000 })

/-- R166 with R38: the status and fault words, in the fault state too. -/
def Obligations.RdstReadsStatusAndFault : Prop :=
  ∀ s : State,
    (∃ st : Reg24, exec (.rdst 0) s = .next (s.answering 0 st (s.fcode.setWidth 24)) ∧
      ∀ n, n < 24 → st.getLsbD n = s.statusBit n) ∧
    (∃ (top : BitVec 16) (a b : Reg24), (top ++ a ++ b : Word) = s.fcmd ∧
      exec (.rdst 1) s = .next (s.answering 0 a b) ∧ exec (.rdst 2) s = .next (s.answering 0 0 (top.setWidth 24))) ∧
    (∀ sel, 3 ≤ sel → Traps (.rdst sel) s 0x05) ∧
    (s.Inv → s.fault = false → s.fcode = 0 ∧ s.fcmd = 0)

/-- R168: the configuration words, in the fault state too. -/
def Obligations.RdcfgReadsConfiguration : Prop :=
  ∀ s : State,
    (s.cfg.legal → ∃ r w t : Reg24, r.toNat = s.cfg.R ∧ w.toNat = s.cfg.W ∧ t.toNat = s.cfg.T ∧
      exec (.rdcfg 0) s = .next (s.answering 0 r w) ∧
      exec (.rdcfg 1) s = .next (s.answering 0 t 2) ∧
      exec (.rdcfg 2) s = .next (s.answering 0 3 1)) ∧
    (∀ sel, 3 ≤ sel → Traps (.rdcfg sel) s 0x05)

/-- R169, R201: soft reset, in the fault state too, leaves what the reset input leaves, and responds. -/
def Obligations.SrstResets : Prop :=
  ∀ s : State, ∃ t, exec .srst s = .next t ∧ t.sck = State.resetOf s.cfg ∧ t.host = s.host.tail ∧ t.resp = some 0

/-- R44: the reset values. -/
def Obligations.ResetValues : Prop :=
  ∀ (p : Config.Params) (s : State), s = State.resetOf p →
    s.cfg = p ∧ s.ew = 0 ∧ s.sw = 0 ∧ (∀ L, s.llen.get L = 0) ∧ (∀ k, s.mv.get k = false) ∧ s.ev = false ∧
    s.sv = false ∧ s.ctv = false ∧ (∀ L, s.lv.get L = false) ∧ s.fault = false ∧ s.fcode = 0 ∧ s.fcmd = 0 ∧
    (∀ k l, (s.col.get k).read l = 0) ∧ (∀ k l, (s.row.get k).read l = 0) ∧ (∀ k j, s.errBit k j = false) ∧
    (∀ j, s.synBit j = false) ∧ (∀ k j, s.counter k j = 0) ∧ (∀ L n, s.entry L n = ⟨.b0, 0, 0⟩)

/-! ## Matrix commands (40_block_algebra.md) -/

/-- R97: `WRS` writes one position and clears the flags; it writes no other element. -/
def Obligations.WrsWritesOnePosition : Prop :=
  ∀ (s : State) (sel : Side) (k : Block) (l p : Nat), s.fault = false →
    (∀ n, 2 ≤ n → Traps (.wrs sel n l p) s 0x03) ∧
    (s.cfg.W ≤ l ∨ s.cfg.R ≤ p → Traps (.wrs sel k.toNat l p) s 0x05) ∧
    (s.cfg.legal → s.MemoriesWf → l < s.cfg.W → p < s.cfg.R →
      ∃ t, exec (.wrs sel k.toNat l p) s = .next t ∧
        ((t.sideMemory sel k).read l).toNat = p ∧
        (∀ sel' k' l', ¬ (sel' = sel ∧ k' = k ∧ l' = l) →
          (t.sideMemory sel' k').read l' = (s.sideMemory sel' k').read l') ∧
        { t with col := s.col, row := s.row } =
          { s with mv := s.mv.set k false, sv := false, ctv := false, lv := ⟨false, false, false⟩,
                   host := s.host.tail, resp := some 0 })

/-- R98. -/
def Obligations.RdsReadsOnePosition : Prop :=
  ∀ (s : State) (sel : Side) (k : Block) (l : Nat), s.fault = false →
    (∀ n, 2 ≤ n → Traps (.rds sel n l) s 0x03) ∧
    (s.cfg.W ≤ l → Traps (.rds sel k.toNat l) s 0x05) ∧
    (l < s.cfg.W → exec (.rds sel k.toNat l) s = .next (s.answering 0 0 ((s.sideMemory sel k).read l)))

/-- R99 with the support of R91: `TRN` refuses a list that is not valid, and otherwise writes the valid list of the negated
positions to the other side and sets `MV[k]`; on a block that is valid already it changes no element. -/
def Obligations.TrnDerivesTranspose : Prop :=
  ∀ (s : State) (d : Direction) (k : Block), s.fault = false →
    (∀ n, 2 ≤ n → Traps (.trn d n) s 0x03) ∧
    (validSparse s.cfg.R (s.sparse (sourceSide d) k) = false → Traps (.trn d k.toNat) s 0x06) ∧
    (s.cfg.legal → validSparse s.cfg.R (s.sparse (sourceSide d) k) = true →
      ∃ t, exec (.trn d k.toNat) s = .next t ∧
        validSparse s.cfg.R (t.sparse (destinationSide d) k) = true ∧
        (∀ q, q ∈ t.sparse (destinationSide d) k ↔
          ∃ p ∈ s.sparse (sourceSide d) k, q = (s.cfg.R - p) % s.cfg.R) ∧
        (∀ sel' k', ¬ (sel' = destinationSide d ∧ k' = k) → t.sideMemory sel' k' = s.sideMemory sel' k') ∧
        { t with col := s.col, row := s.row } =
          { s with mv := s.mv.set k true, host := s.host.tail, resp := some 0 } ∧
        (s.Inv → s.mv.get k = true → t.col = s.col ∧ t.row = s.row))

/-- R100: one bit of the dense view, which is a bit of column 0 or of row 0 of the circulant of R16. -/
def Obligations.RddReadsDenseBit : Prop :=
  ∀ (s : State) (sel : Side) (k : Block) (j : Nat), s.fault = false →
    (∀ n, 2 ≤ n → Traps (.rdd sel n j) s 0x03) ∧
    (s.cfg.R ≤ j → Traps (.rdd sel k.toNat j) s 0x05) ∧
    (j < s.cfg.R → s.mv.get k = false → Traps (.rdd sel k.toNat j) s 0x08) ∧
    (j < s.cfg.R → s.mv.get k = true →
      exec (.rdd sel k.toNat j) s = .next (s.answering 0 0 (if j ∈ s.sparse sel k then 1 else 0)) ∧
      (s.MatrixOk k →
        (j ∈ s.sparse .columns k ↔ Hbit s.cfg.R (s.sparse .columns k) j 0 = true) ∧
        (j ∈ s.sparse .rows k ↔ Hbit s.cfg.R (s.sparse .columns k) 0 j = true)))

/-! ## Error vector (41_error_syndrome.md section 1) -/

/-- R110. -/
def Obligations.EclrClearsErrorVector : Prop :=
  ∀ s : State, s.fault = false →
    ∃ t, exec .eclr s = .next t ∧ (∀ k j, t.errBit k j = false) ∧
      { t with err := s.err } =
        { s with ew := 0, ev := true, sv := false, ctv := false, lv := ⟨false, false, false⟩, host := s.host.tail,
                 resp := some 0 }

/-- R111: `ETOG` toggles one bit, moves `EW` by one and answers the new bit and the new weight. -/
def Obligations.EtogTogglesErrorBit : Prop :=
  ∀ (s : State) (k : Block) (j : Nat), s.fault = false →
    (∀ n, 2 ≤ n → Traps (.etog n j) s 0x03) ∧
    (s.cfg.R ≤ j → Traps (.etog k.toNat j) s 0x05) ∧
    (j < s.cfg.R → s.ev = false → Traps (.etog k.toNat j) s 0x09) ∧
    (s.MemoriesWf → j < s.cfg.R → s.ev = true →
      ∃ t, exec (.etog k.toNat j) s = .next t ∧
        (∀ k' j', t.errBit k' j' = if k' = k ∧ j' = j then !s.errBit k j else s.errBit k' j') ∧
        { t with err := s.err } =
          { s with ew := if s.errBit k j then s.ew - 1 else s.ew + 1, sv := false, ctv := false,
                   lv := ⟨false, false, false⟩, host := s.host.tail,
                   resp := some (wordOf 0 0 (if s.errBit k j then 0 else 1)
                     (if s.errBit k j then s.ew - 1 else s.ew + 1)) } ∧
        ∃ u, exec (.etog k.toNat j) t = .next u ∧ u.err = s.err ∧ u.ew = s.ew) ∧
    (s.Inv → j < s.cfg.R → s.ev = true → ∀ t, exec (.etog k.toNat j) s = .next t → t.ew.toNat ≤ 2 * s.cfg.R)

/-- R112, R113. -/
def Obligations.RdeRdewReadErrorVector : Prop :=
  ∀ (s : State) (k : Block) (j : Nat), s.fault = false →
    (∀ n, 2 ≤ n → Traps (.rde n j) s 0x03) ∧
    (s.cfg.R ≤ j → Traps (.rde k.toNat j) s 0x05) ∧
    (j < s.cfg.R → s.ev = false → Traps (.rde k.toNat j) s 0x09) ∧
    (j < s.cfg.R → s.ev = true →
      exec (.rde k.toNat j) s = .next (s.answering 0 0 (if s.errBit k j then 1 else 0))) ∧
    (s.ev = false → Traps .rdew s 0x09) ∧
    (s.ev = true → exec .rdew s = .next (s.answering 0 0 s.ew))

/-- R114. -/
def Obligations.EwchkChecksWeight : Prop :=
  ∀ s : State, s.fault = false →
    (s.ev = false → Traps .ewchk s 0x09) ∧
    (s.ev = true → s.ew.toNat ≠ s.cfg.T → Traps .ewchk s 0x07) ∧
    (s.ev = true → s.ew.toNat = s.cfg.T → exec .ewchk s = .next (s.answering 0 0 s.ew))

/-! ## Syndrome and flip (41_error_syndrome.md sections 2 and 3) -/

/-- R120. -/
def Obligations.SclrZeroesSyndrome : Prop :=
  ∀ s : State, s.fault = false →
    ∃ t, exec .sclr s = .next t ∧ (∀ j, t.synBit j = false) ∧
      { t with syn := s.syn } =
        { s with sw := 0, sv := true, ctv := false, lv := ⟨false, false, false⟩, host := s.host.tail,
                 resp := some 0 }

/-- R122: `XACC` XORs the product of one block into the syndrome; issued twice it restores it. -/
def Obligations.XaccAccumulatesBlock : Prop :=
  ∀ (s : State) (k : Block), s.fault = false →
    (∀ n, 2 ≤ n → Traps (.xacc n) s 0x03) ∧
    (s.mv.get k = false → Traps (.xacc k.toNat) s 0x08) ∧
    (s.mv.get k = true → s.ev = false → Traps (.xacc k.toNat) s 0x09) ∧
    (s.mv.get k = true → s.ev = true → s.sv = false → Traps (.xacc k.toNat) s 0x0A) ∧
    (s.cfg.legal → s.mv.get k = true → s.ev = true → s.sv = true →
      ∃ t, exec (.xacc k.toNat) s = .next t ∧
        (∀ j, j < s.cfg.R →
          t.synBit j = Bool.xor (s.synBit j) (mulx s.cfg.R (s.sparse .rows k) (s.errBit k) j)) ∧
        t.sw.toNat = popcount s.cfg.R t.synBit ∧
        { t with syn := s.syn, sw := s.sw } =
          { s with ctv := false, lv := ⟨false, false, false⟩, host := s.host.tail,
                   resp := some (wordOf 0 0 0 t.sw) }) ∧
    (s.Inv → s.mv.get k = true → s.ev = true → s.sv = true →
      ∃ t u, exec (.xacc k.toNat) s = .next t ∧ exec (.xacc k.toNat) t = .next u ∧ u.syn = s.syn ∧ u.sw = s.sw)

/-- R123: `SYN` builds the syndrome from both blocks, and where the matrix is as its flags say, it is `H * e^T` (R17). -/
def Obligations.SynComputesSyndrome : Prop :=
  ∀ s : State, s.fault = false →
    (s.mv.b0 = false ∨ s.mv.b1 = false → Traps .syn s 0x08) ∧
    (s.mv.b0 = true → s.mv.b1 = true → s.ev = false → Traps .syn s 0x09) ∧
    (s.cfg.legal → s.mv.b0 = true → s.mv.b1 = true → s.ev = true →
      ∃ t, exec .syn s = .next t ∧
        (∀ j, j < s.cfg.R → t.synBit j =
          Bool.xor (mulx s.cfg.R (s.sparse .rows .b0) (s.errBit .b0) j)
            (mulx s.cfg.R (s.sparse .rows .b1) (s.errBit .b1) j)) ∧
        (s.MatrixOk .b0 → s.MatrixOk .b1 → ∀ a, a < s.cfg.R → t.synBit a =
          syndromeOf s.cfg.R (s.sparse .columns .b0) (s.sparse .columns .b1) (s.errBit .b0) (s.errBit .b1) a) ∧
        t.sw.toNat = popcount s.cfg.R t.synBit ∧
        { t with syn := s.syn, sw := s.sw } =
          { s with sv := true, ctv := false, lv := ⟨false, false, false⟩, host := s.host.tail,
                   resp := some (wordOf 0 0 0 t.sw) })

/-- R123: `SYN` has exactly the effect of `SCLR`, `XACC 0`, `XACC 1` as one command. -/
def Obligations.SynIsClearThenAccumulate : Prop :=
  ∀ s : State, s.fault = false → s.mv.b0 = true → s.mv.b1 = true → s.ev = true →
    ∃ t t1 t2 t3, exec .syn s = .next t ∧ exec .sclr s = .next t1 ∧ exec (.xacc 0) t1 = .next t2 ∧
      exec (.xacc 1) t2 = .next t3 ∧ t.sck = t3.sck ∧ t.resp = t3.resp

/-- R124: the syndrome is linear in the error vector, the weights are subadditive. -/
def Obligations.SynIsLinear : Prop :=
  ∀ s1 s2 s3 t1 t2 t3 : State, s1.cfg.legal → s2.cfg = s1.cfg → s3.cfg = s1.cfg → s2.row = s1.row → s3.row = s1.row →
    (∀ k j, s3.errBit k j = Bool.xor (s1.errBit k j) (s2.errBit k j)) →
    (∀ s ∈ [s1, s2, s3], s.fault = false ∧ s.mv.b0 = true ∧ s.mv.b1 = true ∧ s.ev = true) →
    exec .syn s1 = .next t1 → exec .syn s2 = .next t2 → exec .syn s3 = .next t3 →
    (∀ j, t3.synBit j = Bool.xor (t1.synBit j) (t2.synBit j)) ∧ t3.sw.toNat ≤ t1.sw.toNat + t2.sw.toNat

/-- R125: `STOG` toggles one bit, moves `SW` by one, writes no flag. -/
def Obligations.StogTogglesSyndromeBit : Prop :=
  ∀ (s : State) (j : Nat), s.fault = false →
    (s.cfg.R ≤ j → Traps (.stog j) s 0x05) ∧
    (j < s.cfg.R → s.sv = false → Traps (.stog j) s 0x0A) ∧
    (s.MemoriesWf → j < s.cfg.R → s.sv = true →
      ∃ t, exec (.stog j) s = .next t ∧
        (∀ j', t.synBit j' = if j' = j then !s.synBit j else s.synBit j') ∧
        { t with syn := s.syn } =
          { s with sw := if s.synBit j then s.sw - 1 else s.sw + 1, host := s.host.tail,
                   resp := some (wordOf 0 0 (if s.synBit j then 0 else 1)
                     (if s.synBit j then s.sw - 1 else s.sw + 1)) })

/-- R126, R127. -/
def Obligations.RdsyRdswReadSyndrome : Prop :=
  ∀ (s : State) (j : Nat), s.fault = false →
    (s.cfg.R ≤ j → Traps (.rdsy j) s 0x05) ∧
    (j < s.cfg.R → s.sv = false → Traps (.rdsy j) s 0x0A) ∧
    (j < s.cfg.R → s.sv = true → exec (.rdsy j) s = .next (s.answering 0 0 (if s.synBit j then 1 else 0))) ∧
    (s.sv = false → Traps .rdsw s 0x0A) ∧
    (s.sv = true → exec .rdsw s = .next (s.answering 0 0 s.sw))

/-- R130, R131: the single flip. The counter `c` is that of the syndrome as it is when the flip starts; `SW + W - 2c` is
formed in integers. The same change is the operation `flip` that `FLIPL` repeats. -/
def Obligations.FlipUpdatesIncrementally : Prop :=
  ∀ (s : State) (k : Block) (j : Nat), s.fault = false →
    (∀ n, 2 ≤ n → Traps (.flip n j) s 0x03) ∧
    (s.cfg.R ≤ j → Traps (.flip k.toNat j) s 0x05) ∧
    (j < s.cfg.R → s.mv.get k = false → Traps (.flip k.toNat j) s 0x08) ∧
    (j < s.cfg.R → s.mv.get k = true → s.ev = false → Traps (.flip k.toNat j) s 0x09) ∧
    (j < s.cfg.R → s.mv.get k = true → s.ev = true → s.sv = false → Traps (.flip k.toNat j) s 0x0A) ∧
    (s.Inv → j < s.cfg.R → s.mv.get k = true → s.ev = true → s.sv = true →
      ∃ t c, exec (.flip k.toNat j) s = .next t ∧
        c = ((s.sparse .columns k).map fun p => (s.synBit ((j + p) % s.cfg.R)).toNat).sum ∧
        (∀ k' j', t.errBit k' j' = if k' = k ∧ j' = j then !s.errBit k j else s.errBit k' j') ∧
        (∀ a, t.synBit a =
          if ∃ p ∈ s.sparse .columns k, a = (j + p) % s.cfg.R then !s.synBit a else s.synBit a) ∧
        (t.ew.toNat : Int) = s.ew.toNat + (if s.errBit k j then -1 else 1) ∧
        (t.sw.toNat : Int) = s.sw.toNat + s.cfg.W - 2 * c ∧
        (∃ u, u = Machine.flip k j s ∧ t = { u with host := s.host.tail, resp := t.resp }) ∧
        ((s.sparse .columns k).map fun p => (j + p) % s.cfg.R).Nodup ∧
        (∀ a, (∃ p ∈ s.sparse .columns k, a = (j + p) % s.cfg.R) ↔
          ∃ q ∈ s.sparse .rows k, a = (j + s.cfg.R - q) % s.cfg.R) ∧
        { t with err := s.err, syn := s.syn, ew := s.ew, sw := s.sw } =
          { s with host := s.host.tail, resp := some (wordOf 0 0 (BitVec.ofNat 24 c) t.sw) })

/-! ## Counters (42_counters.md) -/

/-- R140: `CNT` replaces the whole snapshot. -/
def Obligations.CntRebuildsSnapshot : Prop :=
  ∀ s : State, s.fault = false →
    (s.mv.b0 = false ∨ s.mv.b1 = false → Traps .cnt s 0x08) ∧
    (s.mv.b0 = true → s.mv.b1 = true → s.sv = false → Traps .cnt s 0x0A) ∧
    (s.mv.b0 = true → s.mv.b1 = true → s.sv = true →
      ∃ t, exec .cnt s = .next t ∧
        (∀ k j, j < s.cfg.R → t.counter k j =
          ((s.sparse .columns k).map fun p => (s.synBit ((j + p) % s.cfg.R)).toNat).sum) ∧
        { t with ctr := s.ctr } = { s with ctv := true, host := s.host.tail, resp := some 0 })

/-- R142: the counter of R17, counted over the rows of the matrix, against the syndrome as it is now; a `FLIP` that
follows answers the same counter. -/
def Obligations.GetcReadsExactCounter : Prop :=
  ∀ (s : State) (k : Block) (j : Nat), s.fault = false →
    (∀ n, 2 ≤ n → Traps (.getc n j) s 0x03) ∧
    (s.cfg.R ≤ j → Traps (.getc k.toNat j) s 0x05) ∧
    (j < s.cfg.R → s.mv.get k = false → Traps (.getc k.toNat j) s 0x08) ∧
    (j < s.cfg.R → s.mv.get k = true → s.sv = false → Traps (.getc k.toNat j) s 0x0A) ∧
    (s.cfg.legal → s.MatrixOk k → j < s.cfg.R → s.mv.get k = true → s.sv = true →
      ∃ c : Reg24, exec (.getc k.toNat j) s = .next (s.answering 0 0 c) ∧
        c.toNat = counterOf s.cfg.R (s.sparse .columns k) j s.synBit ∧
        (s.ev = true → ∃ t w, exec (.flip k.toNat j) s = .next t ∧ t.resp = some (wordOf 0 0 c w)))

/-- R143: the stored counter. -/
def Obligations.RdcReadsSnapshot : Prop :=
  ∀ (s : State) (k : Block) (j : Nat), s.fault = false →
    (∀ n, 2 ≤ n → Traps (.rdc n j) s 0x03) ∧
    (s.cfg.R ≤ j → Traps (.rdc k.toNat j) s 0x05) ∧
    (j < s.cfg.R → s.ctv = false → Traps (.rdc k.toNat j) s 0x0B) ∧
    (s.Inv → j < s.cfg.R → s.ctv = true →
      ∃ c : Reg24, exec (.rdc k.toNat j) s = .next (s.answering 0 0 c) ∧ c.toNat = s.counter k j)

/-! ## Ranking (43_ranking.md) -/

/-- R151 with the scan order of R150. -/
def Obligations.SelrSelectsByCounter : Prop :=
  ∀ (s : State) (L : ListId) (lo hi : Nat), s.fault = false →
    (∀ n, 3 ≤ n → Traps (.selr n lo hi) s 0x04) ∧
    (s.ctv = false → Traps (.selr L.toNat lo hi) s 0x0B) ∧
    (s.cfg.legal → s.MemoriesWf → s.ctv = true →
      ∃ (t : State) (es : List Entry), exec (.selr L.toNat lo hi) s = .next t ∧
        es = ([Block.b0, Block.b1].flatMap fun k =>
          (List.range s.cfg.R).map fun j => (⟨k, BitVec.ofNat 24 j, s.counter k j⟩ : Entry)).filter
            (fun e => decide (lo ≤ e.c ∧ e.c ≤ hi)) ∧
        t.entries L = es ∧
        (∀ n, es.length ≤ n → t.entry L n = s.entry L n) ∧
        (∀ L', L' ≠ L → t.list.get L' = s.list.get L') ∧
        { t with list := s.list } =
          { s with llen := s.llen.set L (BitVec.ofNat 24 es.length), lv := s.lv.set L true, host := s.host.tail,
                   resp := some (wordOf 0 0 0 (BitVec.ofNat 24 es.length)) })

/-- R152: the first `K` of all positions in the order `≺` (larger counter first, then smaller linear index): they stand in
that order, and every position left out comes after all of them. -/
def Obligations.TopkRanksByCounter : Prop :=
  ∀ (s : State) (L : ListId) (K : Nat), s.fault = false →
    (∀ n, 3 ≤ n → Traps (.topk n K) s 0x04) ∧
    (2 * s.cfg.R < K → Traps (.topk L.toNat K) s 0x05) ∧
    (K ≤ 2 * s.cfg.R → s.ctv = false → Traps (.topk L.toNat K) s 0x0B) ∧
    (s.cfg.legal → s.MemoriesWf → K ≤ 2 * s.cfg.R → s.ctv = true →
      ∃ (t : State) (es : List Entry), exec (.topk L.toNat K) s = .next t ∧
        t.entries L = es ∧ es.length = K ∧
        (∀ e ∈ es, e.j.toNat < s.cfg.R ∧ e.c = s.counter e.k e.j.toNat) ∧
        es.Pairwise (fun e f => f.c < e.c ∨
          (e.c = f.c ∧ e.k.toNat * s.cfg.R + e.j.toNat < f.k.toNat * s.cfg.R + f.j.toNat)) ∧
        (∀ k j, j < s.cfg.R → (∀ e ∈ es, ¬ (e.k = k ∧ e.j.toNat = j)) → ∀ e ∈ es,
          s.counter k j < e.c ∨
          (e.c = s.counter k j ∧ e.k.toNat * s.cfg.R + e.j.toNat < k.toNat * s.cfg.R + j)) ∧
        (∀ n, K ≤ n → t.entry L n = s.entry L n) ∧
        (∀ L', L' ≠ L → t.list.get L' = s.list.get L') ∧
        { t with list := s.list } =
          { s with llen := s.llen.set L (BitVec.ofNat 24 K), lv := s.lv.set L true, host := s.host.tail,
                   resp := some (wordOf 0 0 0 (BitVec.ofNat 24 K)) })

/-- R153: `FLIPL` performs the flips of the list's positions in list order, each on the state the one before left; a
second `FLIPL` undoes the first. -/
def Obligations.FliplFlipsInListOrder : Prop :=
  ∀ (s : State) (L : ListId), s.fault = false →
    (∀ n, 3 ≤ n → Traps (.flipl n) s 0x04) ∧
    (s.mv.b0 = false ∨ s.mv.b1 = false → Traps (.flipl L.toNat) s 0x08) ∧
    (s.mv.b0 = true → s.mv.b1 = true → s.ev = false → Traps (.flipl L.toNat) s 0x09) ∧
    (s.mv.b0 = true → s.mv.b1 = true → s.ev = true → s.sv = false → Traps (.flipl L.toNat) s 0x0A) ∧
    (s.mv.b0 = true → s.mv.b1 = true → s.ev = true → s.sv = true → s.lv.get L = false →
      Traps (.flipl L.toNat) s 0x0C) ∧
    (s.mv.b0 = true → s.mv.b1 = true → s.ev = true → s.sv = true → s.lv.get L = true →
      ∃ t u, exec (.flipl L.toNat) s = .next t ∧
        u = (s.entries L).foldl (fun u e => Machine.flip e.k e.j.toNat u) s ∧
        t = { u with host := s.host.tail, resp := some (wordOf 0 0 (s.llen.get L) u.sw) } ∧
        { t with err := s.err, syn := s.syn, ew := s.ew, sw := s.sw } =
          { s with host := s.host.tail, resp := some (wordOf 0 0 (s.llen.get L) t.sw) } ∧
        (s.Inv → ∃ v, exec (.flipl L.toNat) t = .next v ∧ v.err = s.err ∧ v.syn = s.syn ∧ v.ew = s.ew ∧ v.sw = s.sw))

/-- R154, R155: one list entry, and the length of a list. -/
def Obligations.RdlRdlnReadList : Prop :=
  ∀ (s : State) (L : ListId) (n : Nat), s.fault = false →
    (∀ m, 3 ≤ m → Traps (.rdl m n) s 0x04 ∧ Traps (.rdln m) s 0x04) ∧
    (s.lv.get L = false → Traps (.rdl L.toNat n) s 0x0C ∧ Traps (.rdln L.toNat) s 0x0C) ∧
    (s.lv.get L = true → (s.llen.get L).toNat ≤ n → Traps (.rdl L.toNat n) s 0x05) ∧
    (s.Inv → s.lv.get L = true → n < (s.llen.get L).toNat →
      ∃ (e : Entry) (c : Reg24), s.entry L n = e ∧ c.toNat = e.c ∧
        exec (.rdl L.toNat n) s = .next (s.answering (BitVec.ofNat 8 e.k.toNat) e.j c)) ∧
    (s.lv.get L = true → exec (.rdln L.toNat) s = .next (s.answering 0 0 (s.llen.get L)))

/-! ## Laws of the algebra -/

/-- R101: transposing twice gives the block back, and after `TRN F, k` the command `TRN B, k` succeeds and changes no list. -/
def Obligations.TransposeTwiceIsIdentity : Prop :=
  (∀ (R : Nat) (P : List Nat), validSparse R P = true → transpose R (transpose R P) = P) ∧
  ∀ (s : State) (k : Block), s.cfg.legal → s.MemoriesWf → s.fault = false →
    validSparse s.cfg.R (s.sparse .columns k) = true →
    ∃ t u, exec (.trn .forward k.toNat) s = .next t ∧ exec (.trn .backward k.toNat) t = .next u ∧ u.resp = some 0 ∧
      u.col = t.col ∧ u.row = t.row ∧ u.col = s.col

/-- The gather product with the transposed block is the scatter product with the block, and the same with sums: the duality
of 40_block_algebra.md section 1 ("Duality of the two shift directions"), which the spec infers. -/
def Obligations.GatherScatterDuality : Prop :=
  ∀ (R : Nat) (P : List Nat) (Y : Nat → Bool) (j : Nat), validSparse R P = true → j < R →
    mulx R (transpose R P) Y j = mulxScatter R P Y j ∧ muladd R (transpose R P) Y j = muladdScatter R P Y j

/-- The two wrap-free evaluations read the window of 20_memory.md R56, and a GF(2) product is the parity of the integer one
(40_block_algebra.md R94). -/
def Obligations.WindowAndParityLaws : Prop :=
  (∀ (R x j : Nat) (Y : Nat → Bool), x < R → j < R →
    windowTwoPass R Y x j = window R Y x j ∧ windowDoubled R Y x j = window R Y x j) ∧
  ∀ (R : Nat) (X : List Nat) (Y : Nat → Bool) (j : Nat),
    muladd R X Y j ≤ X.length ∧ mulx R X Y j = decide (muladd R X Y j % 2 = 1)

/-- The counter of a position counted over the rows of the matrix is the sum over the column list, and the sum over the row
list; the counters of a block add up to the weight of the block times that of the syndrome. These are the closed forms of
42_counters.md ("Closed form of a counter"), which the spec infers. -/
def Obligations.CounterClosedForms : Prop :=
  ∀ (R : Nat) (P : List Nat) (s : Nat → Bool), validSparse R P = true →
    (∀ j, j < R → counterOf R P j s = muladd R P s j ∧ counterOf R P j s = muladdScatter R (transpose R P) s j ∧
      counterOf R P j s ≤ P.length) ∧
    ((List.range R).map fun j => counterOf R P j s).sum = P.length * popcount R s

/-- A flip leaves the XOR of the syndrome with `H * ERR^T` as it was: 41_error_syndrome.md section 3, "the vector `SYN XOR
H·ERR^T` is unchanged by a flip", which the spec infers. -/
def Obligations.FlipKeepsSyndromeDifference : Prop :=
  ∀ (s t : State) (k : Block) (j : Nat), s.Inv → s.fault = false → s.mv.get k = true → s.ev = true → s.sv = true →
    j < s.cfg.R → exec (.flip k.toNat j) s = .next t →
    ∀ a, a < s.cfg.R →
      Bool.xor (t.synBit a) (syndromeOf s.cfg.R (s.sparse .columns .b0) (s.sparse .columns .b1) (t.errBit .b0)
        (t.errBit .b1) a) =
      Bool.xor (s.synBit a) (syndromeOf s.cfg.R (s.sparse .columns .b0) (s.sparse .columns .b1) (s.errBit .b0)
        (s.errBit .b1) a)

/-- `ETOG`, `STOG`, `FLIP` and `FLIPL`, issued twice, restore the error vector, the syndrome and both weights: 20_memory.md
section 2, "issued twice with the same operands", which the spec infers. -/
def Obligations.TogglesUndoThemselves : Prop :=
  ∀ (i : Instr) (s t : State) (rw : Word), s.Inv →
    (match i with | .etog _ _ | .stog _ | .flip _ _ | .flipl _ => True | _ => False) →
    exec i s = .next t → t.resp = some rw → opField rw = 0x00 →
    ∃ u, exec i t = .next u ∧ u.err = s.err ∧ u.syn = s.syn ∧ u.ew = s.ew ∧ u.sw = s.sw

/-- The state after `FLIPL` does not depend on the order of the list: 43_ranking.md "Order independence", which the spec
infers. The two states differ in their lists alone. -/
def Obligations.FliplOrderIndependent : Prop :=
  ∀ (s s' t t' : State) (L : ListId), s.Inv → s'.Inv → s' = { s with list := s'.list } → s.fault = false →
    s.mv.b0 = true → s.mv.b1 = true → s.ev = true → s.sv = true → s.lv.get L = true →
    ((s.entries L).map fun e => (e.k, e.j)).Perm ((s'.entries L).map fun e => (e.k, e.j)) →
    exec (.flipl L.toNat) s = .next t → exec (.flipl L.toNat) s' = .next t' →
    t.err = t'.err ∧ t.syn = t'.syn ∧ t.ew = t'.ew ∧ t.sw = t'.sw

/-- Right after `CNT` the stored counter and the exact counter of every position agree: 42_counters.md, "Immediately after
`CNT`, `RDC k, j` and `GETC k, j` agree for every position", which the spec infers. -/
def Obligations.SnapshotAgreesAfterCnt : Prop :=
  ∀ (s t : State) (k : Block) (j : Nat), s.fault = false → s.mv.b0 = true → s.mv.b1 = true → s.sv = true →
    j < s.cfg.R → exec .cnt s = .next t →
    ∃ c, exec (.rdc k.toNat j) t = .next (t.answering 0 0 c) ∧ exec (.getc k.toNat j) t = .next (t.answering 0 0 c)

/-! ## The invariant of 10_state.md section 6 -/

/-- Every step keeps the invariant. -/
def Obligations.StepKeepsInvariant : Prop :=
  ∀ s t : State, s.Inv → step s = .next t → t.Inv

/-- The reset state of every legal configuration has the invariant. -/
def Obligations.ResetSatisfiesInvariant : Prop :=
  (∀ p : Config.Params, p.legal → (State.resetOf p).Inv) ∧ State.reset.Inv
end

