-- ==== Sys2Proof/Laws/Algebra.lean ====
section
/-! SUPPORT. Small lemmas of the pure functions of 40_block_algebra.md section 1. -/

namespace Sys2Proof.Machine

open Sys2Proof

/-! ## Sparse blocks -/

theorem increasing_iff_pairwise (P : List Nat) : increasing P = true ↔ P.Pairwise (· < ·) := by
  induction P with
  | nil => simp [increasing]
  | cons p P ih =>
    cases P with
    | nil => simp [increasing]
    | cons q P =>
      simp only [increasing, Bool.and_eq_true, decide_eq_true_eq, ih, List.pairwise_cons, List.mem_cons]
      constructor
      · rintro ⟨hpq, hq, hP⟩
        refine ⟨?_, hq, hP⟩
        rintro a (rfl | ha)
        · exact hpq
        · exact lt_trans hpq (hq a ha)
      · rintro ⟨hp, hq, hP⟩
        exact ⟨hp q (Or.inl rfl), hq, hP⟩

/-- A valid block: strictly increasing and below `R` (00_scope.md R13). -/
theorem validSparse_iff (R : Nat) (P : List Nat) :
    validSparse R P = true ↔ P.Pairwise (· < ·) ∧ ∀ p ∈ P, p < R := by
  simp [validSparse, increasing_iff_pairwise]

theorem validSparse_nodup {R : Nat} {P : List Nat} (h : validSparse R P = true) : P.Nodup :=
  ((validSparse_iff R P).mp h).1.imp (fun hlt => Nat.ne_of_lt hlt)

@[simp] theorem transpose_length (R : Nat) (P : List Nat) : (transpose R P).length = P.length := by
  cases P with
  | nil => rfl
  | cons p P =>
    unfold transpose
    by_cases h : p = 0 <;> simp [h]

@[simp] theorem dense_eq (P : List Nat) (j : Nat) : dense P j = decide (j ∈ P) := by
  simp [dense]

/-! ## XOR of lists -/

@[simp] theorem xorAll_nil : xorAll [] = false := rfl
@[simp] theorem xorAll_cons (b : Bool) (bs : List Bool) : xorAll (b :: bs) = Bool.xor b (xorAll bs) := rfl

theorem xorAll_append (as bs : List Bool) : xorAll (as ++ bs) = Bool.xor (xorAll as) (xorAll bs) := by
  induction as with
  | nil => simp
  | cons a as ih => simp [ih]

/-- The XOR of pointwise XORs. -/
theorem xorAll_map_xor {α : Type} (xs : List α) (f g : α → Bool) :
    xorAll (xs.map fun x => Bool.xor (f x) (g x)) = Bool.xor (xorAll (xs.map f)) (xorAll (xs.map g)) := by
  induction xs with
  | nil => rfl
  | cons x xs ih =>
    simp only [List.map_cons, xorAll_cons, ih]
    cases f x <;> cases g x <;> simp

/-- The XOR of a list is the parity of its number of ones. -/
theorem xorAll_eq_parity (bs : List Bool) : xorAll bs = decide ((bs.map Bool.toNat).sum % 2 = 1) := by
  induction bs with
  | nil => rfl
  | cons b bs ih =>
    cases b
    · simp [ih]
    · simp only [xorAll_cons, ih, List.map_cons, List.sum_cons, Bool.toNat_true, Bool.true_xor]
      rcases Nat.mod_two_eq_zero_or_one (bs.map Bool.toNat).sum with h | h <;> simp [Nat.add_mod, h]

/-! ## Products and counters -/

/-- A product reads its dense operand below `R` alone. -/
theorem mulx_congr {R : Nat} (hR : 0 < R) (X : List Nat) {Y Y' : Nat → Bool} (h : ∀ j, j < R → Y j = Y' j) (j : Nat) :
    mulx R X Y j = mulx R X Y' j := by
  unfold mulx window
  congr 1
  exact List.map_congr_left fun x _ => h _ (Nat.mod_lt _ hR)

theorem muladd_congr {R : Nat} (hR : 0 < R) (X : List Nat) {Y Y' : Nat → Bool} (h : ∀ j, j < R → Y j = Y' j) (j : Nat) :
    muladd R X Y j = muladd R X Y' j := by
  unfold muladd window
  congr 1
  exact List.map_congr_left fun x _ => by rw [h _ (Nat.mod_lt _ hR)]

theorem popcount_congr {R : Nat} {V V' : Nat → Bool} (h : ∀ j, j < R → V j = V' j) : popcount R V = popcount R V' := by
  unfold popcount
  exact List.countP_congr fun j hj => by rw [h j (List.mem_range.mp hj)]

theorem popcount_le (R : Nat) (V : Nat → Bool) : popcount R V ≤ R := by
  unfold popcount
  simpa using List.countP_le_length (p := V) (l := List.range R)

@[simp] theorem popcount_zero (R : Nat) : popcount R (fun _ => false) = 0 := by
  simp [popcount]

theorem subMod_lt {R : Nat} (hR : 0 < R) (a b : Nat) : subMod R a b < R := Nat.mod_lt _ hR

@[simp] theorem columnPattern_length (R : Nat) (col : List Nat) (j : Nat) :
    (columnPattern R col j).length = col.length := by simp [columnPattern]

end Sys2Proof.Machine
end

