-- ==== Sys2Proof/Laws/Decode.lean ====
section
/-! SUPPORT. The fields of a word built from fields, and of an encoded instruction. -/

namespace Sys2Proof

/-- The bits of a word built from its four fields. -/
theorem wordOf_getLsbD (op sub : Byte) (a b : Reg24) (i : Nat) :
    (wordOf op sub a b).getLsbD i =
      if i < 24 then b.getLsbD i else if i < 48 then a.getLsbD (i - 24)
      else if i < 56 then sub.getLsbD (i - 48) else op.getLsbD (i - 56) := by
  change (op ++ sub ++ a ++ b : BitVec (8 + 8 + 24 + 24)).getLsbD i = _
  rw [BitVec.getLsbD_append, BitVec.getLsbD_append, BitVec.getLsbD_append]
  by_cases h1 : i < 24
  · simp [h1]
  by_cases h2 : i < 48
  · simp [h1, h2, show i - 24 < 24 by omega]
  by_cases h3 : i < 56
  · simp [h1, h2, h3, show ¬ i - 24 < 24 by omega, show i - 24 - 24 = i - 48 by omega, show i - 48 < 8 by omega]
  · simp [h1, h2, h3, show ¬ i - 24 < 24 by omega, show ¬ i - 24 - 24 < 8 by omega,
      show i - 24 - 24 - 8 = i - 56 by omega]

@[simp] theorem opField_wordOf (op sub : Byte) (a b : Reg24) : opField (wordOf op sub a b) = op := by
  apply BitVec.eq_of_getLsbD_eq
  intro i hi
  simp [opField, wordOf_getLsbD, hi]
  simp [show ¬ 56 + i < 24 by omega, show ¬ 56 + i < 48 by omega]

@[simp] theorem subField_wordOf (op sub : Byte) (a b : Reg24) : subField (wordOf op sub a b) = sub := by
  apply BitVec.eq_of_getLsbD_eq
  intro i hi
  simp [subField, wordOf_getLsbD, hi]
  simp [show ¬ 48 + i < 24 by omega, show 48 + i < 56 by omega]

@[simp] theorem aField_wordOf (op sub : Byte) (a b : Reg24) : aField (wordOf op sub a b) = a := by
  apply BitVec.eq_of_getLsbD_eq
  intro i hi
  simp [aField, wordOf_getLsbD, hi]
  simp [show 24 + i < 48 by omega]

@[simp] theorem bField_wordOf (op sub : Byte) (a b : Reg24) : bField (wordOf op sub a b) = b := by
  apply BitVec.eq_of_getLsbD_eq
  intro i hi
  simp [bField, wordOf_getLsbD, hi]

/-- AND of two words, field by field. -/
theorem wordOf_and (op op' sub sub' : Byte) (a a' b b' : Reg24) :
    wordOf op sub a b &&& wordOf op' sub' a' b' = wordOf (op &&& op') (sub &&& sub') (a &&& a') (b &&& b') := by
  apply BitVec.eq_of_getLsbD_eq
  intro i hi
  simp only [BitVec.getLsbD_and, wordOf_getLsbD]
  split
  · rfl
  split
  · rfl
  split <;> rfl

@[simp] theorem opField_encode (i : Instr) : opField (encode i) = i.opcode := by simp [encode]

@[simp] theorem subField_encode (i : Instr) : subField (encode i) = BitVec.ofNat 8 i.subOperand := by simp [encode]

@[simp] theorem aField_encode (i : Instr) : aField (encode i) = BitVec.ofNat 24 i.aOperand := by simp [encode]

@[simp] theorem bField_encode (i : Instr) : bField (encode i) = BitVec.ofNat 24 i.bOperand := by simp [encode]

end Sys2Proof
end

