-- ==== Sys2Proof/Laws/Memory.lean ====
section
/-! SUPPORT. Element memories: read after write, the canonical form and that every memory operation keeps it, equality of
canonical memories from equal reads, and the things held per block and per list. -/

namespace Sys2Proof.Machine

open Sys2Proof

/-! ## Per block and per list -/

@[simp] theorem Blocks.get_set_same {α : Type} (p : Blocks α) (k : Block) (v : α) : (p.set k v).get k = v := by
  cases k <;> rfl

theorem Blocks.get_set_ne {α : Type} (p : Blocks α) {k k' : Block} (v : α) (h : k' ≠ k) :
    (p.set k v).get k' = p.get k' := by
  cases k <;> cases k' <;> first | rfl | exact absurd rfl h

theorem Blocks.get_set {α : Type} (p : Blocks α) (k k' : Block) (v : α) :
    (p.set k v).get k' = if k' = k then v else p.get k' := by
  split
  · next h => rw [h, Blocks.get_set_same]
  · next h => exact p.get_set_ne v h

@[simp] theorem Blocks.set_set {α : Type} (p : Blocks α) (k : Block) (u v : α) : (p.set k u).set k v = p.set k v := by
  cases k <;> rfl

@[simp] theorem Blocks.set_get {α : Type} (p : Blocks α) (k : Block) : p.set k (p.get k) = p := by
  cases k <;> rfl

theorem Blocks.set_comm {α : Type} (p : Blocks α) {k k' : Block} (u v : α) (h : k ≠ k') :
    (p.set k u).set k' v = (p.set k' v).set k u := by
  cases k <;> cases k' <;> first | rfl | exact absurd rfl h

theorem Blocks.ext_get {α : Type} {p q : Blocks α} (h : ∀ k, p.get k = q.get k) : p = q := by
  cases p; cases q
  have h0 := h .b0
  have h1 := h .b1
  simp only [Blocks.get] at h0 h1
  rw [h0, h1]

@[simp] theorem Blocks.get_mk_same {α : Type} (v : α) (k : Block) : (Blocks.mk v v).get k = v := by cases k <;> rfl

@[simp] theorem Lists.get_set_same {α : Type} (p : Lists α) (L : ListId) (v : α) : (p.set L v).get L = v := by
  cases L <;> rfl

theorem Lists.get_set_ne {α : Type} (p : Lists α) {L L' : ListId} (v : α) (h : L' ≠ L) :
    (p.set L v).get L' = p.get L' := by
  cases L <;> cases L' <;> first | rfl | exact absurd rfl h

theorem Lists.get_set {α : Type} (p : Lists α) (L L' : ListId) (v : α) :
    (p.set L v).get L' = if L' = L then v else p.get L' := by
  split
  · next h => rw [h, Lists.get_set_same]
  · next h => exact p.get_set_ne v h

@[simp] theorem Lists.get_mk_same {α : Type} (v : α) (L : ListId) : (Lists.mk v v v).get L = v := by cases L <;> rfl

/-! ## Reading and writing -/

section
variable {α : Type} [Inhabited α]

@[simp] theorem Memory.read_nil (i : Nat) : Memory.read ([] : Memory α) i = resetValue := rfl

theorem Memory.read_cons (j : Nat) (u : α) (m : Memory α) (i : Nat) :
    Memory.read ((j, u) :: m) i = if i = j then u else Memory.read m i := rfl

variable [DecidableEq α]

theorem Memory.wfFrom_cons {n lo i : Nat} {v : α} {m : Memory α} :
    Memory.wfFrom n lo ((i, v) :: m) = true ↔ lo ≤ i ∧ i < n ∧ v ≠ resetValue ∧ Memory.wfFrom n (i + 1) m = true := by
  simp [Memory.wfFrom, and_assoc]

@[simp] theorem Memory.wf_nil (n : Nat) : Memory.wf n ([] : Memory α) = true := rfl

/-- A canonical memory that starts at `lo` reads as reset below `lo`. -/
theorem Memory.read_below {n lo i : Nat} {m : Memory α} (h : Memory.wfFrom n lo m = true) (hi : i < lo) :
    Memory.read m i = resetValue := by
  induction m generalizing lo with
  | nil => rfl
  | cons p m ih =>
    obtain ⟨j, u⟩ := p
    obtain ⟨h1, -, -, h4⟩ := Memory.wfFrom_cons.mp h
    rw [Memory.read_cons, if_neg (by omega)]
    exact ih h4 (by omega)

/-- Outside its elements a canonical memory reads as reset. -/
theorem Memory.read_above {n lo i : Nat} {m : Memory α} (h : Memory.wfFrom n lo m = true) (hi : n ≤ i) :
    Memory.read m i = resetValue := by
  induction m generalizing lo with
  | nil => rfl
  | cons p m ih =>
    obtain ⟨j, u⟩ := p
    obtain ⟨-, h2, -, h4⟩ := Memory.wfFrom_cons.mp h
    rw [Memory.read_cons, if_neg (by omega)]
    exact ih h4

/-- Writing one element leaves every other one alone. -/
theorem Memory.read_write_ne (m : Memory α) {i i' : Nat} (v : α) (h : i' ≠ i) :
    (m.write i v).read i' = m.read i' := by
  induction m with
  | nil => unfold Memory.write; split <;> simp [Memory.read_cons, h]
  | cons p m ih =>
    obtain ⟨j, u⟩ := p
    unfold Memory.write
    split
    · split <;> simp [Memory.read_cons, h]
    · split
      · next hij => subst hij; split <;> simp [Memory.read_cons, h]
      · simp only [Memory.read_cons, ih]

/-- Reading an element after writing it gives the value written. -/
theorem Memory.read_write_same {n lo : Nat} {m : Memory α} (h : Memory.wfFrom n lo m = true) (i : Nat) (v : α) :
    (m.write i v).read i = v := by
  induction m generalizing lo with
  | nil => unfold Memory.write; split <;> simp_all [Memory.read_cons]
  | cons p m ih =>
    obtain ⟨j, u⟩ := p
    obtain ⟨-, -, -, h4⟩ := Memory.wfFrom_cons.mp h
    unfold Memory.write
    split
    · next hlt =>
      split
      · next hv => rw [Memory.read_cons, if_neg (by omega), Memory.read_below h4 (by omega), hv]
      · simp [Memory.read_cons]
    · split
      · next hij =>
        subst hij
        split
        · next hv => rw [Memory.read_below h4 (by omega), hv]
        · simp [Memory.read_cons]
      · next hij => rw [Memory.read_cons, if_neg hij, ih h4]

theorem Memory.read_write {n lo : Nat} {m : Memory α} (h : Memory.wfFrom n lo m = true) (i i' : Nat) (v : α) :
    (m.write i v).read i' = if i' = i then v else m.read i' := by
  split
  · next he => rw [he, Memory.read_write_same h]
  · next he => exact m.read_write_ne v he

theorem Memory.wfFrom_write {n lo : Nat} {m : Memory α} (h : Memory.wfFrom n lo m = true) {i : Nat} (v : α)
    (hlo : lo ≤ i) (hn : i < n) : Memory.wfFrom n lo (m.write i v) = true := by
  induction m generalizing lo with
  | nil =>
    unfold Memory.write
    split
    · rfl
    · next hv => exact Memory.wfFrom_cons.mpr ⟨hlo, hn, hv, rfl⟩
  | cons p m ih =>
    obtain ⟨j, u⟩ := p
    obtain ⟨h1, h2, h3, h4⟩ := Memory.wfFrom_cons.mp h
    unfold Memory.write
    split
    · next hlt =>
      split
      · exact h
      · next hv => exact Memory.wfFrom_cons.mpr ⟨hlo, hn, hv, Memory.wfFrom_cons.mpr ⟨by omega, h2, h3, h4⟩⟩
    · split
      · next hij =>
        subst hij
        split
        · have raise : ∀ {lo lo' : Nat} {m : Memory α}, lo' ≤ lo → Memory.wfFrom n lo m = true →
              Memory.wfFrom n lo' m = true := by
            intro lo lo' m hle hm
            cases m with
            | nil => rfl
            | cons q m =>
              obtain ⟨a, b⟩ := q
              obtain ⟨g1, g2, g3, g4⟩ := Memory.wfFrom_cons.mp hm
              exact Memory.wfFrom_cons.mpr ⟨by omega, g2, g3, g4⟩
          exact raise (by omega) h4
        · next hv => exact Memory.wfFrom_cons.mpr ⟨hlo, hn, hv, h4⟩
      · exact Memory.wfFrom_cons.mpr ⟨h1, h2, h3, ih h4 (by omega)⟩

/-- Writing an element of the memory keeps its canonical form. -/
theorem Memory.wf_write {n : Nat} {m : Memory α} (h : m.wf n = true) {i : Nat} (v : α) (hn : i < n) :
    (m.write i v).wf n = true := Memory.wfFrom_write h v (Nat.zero_le _) hn

theorem Memory.wf_writeFrom {n : Nat} {m : Memory α} (h : m.wf n = true) {i : Nat} (vs : List α)
    (hn : i + vs.length ≤ n) : (m.writeFrom i vs).wf n = true := by
  induction vs generalizing m i with
  | nil => exact h
  | cons v vs ih =>
    simp only [List.length_cons] at hn
    exact ih (m.wf_write h v (by omega)) (by omega)

theorem Memory.read_writeFrom {n : Nat} {m : Memory α} (h : m.wf n = true) {i : Nat} (vs : List α)
    (hn : i + vs.length ≤ n) (i' : Nat) :
    (m.writeFrom i vs).read i' = if i ≤ i' then (vs[i' - i]?).getD (m.read i') else m.read i' := by
  induction vs generalizing m i with
  | nil => simp [Memory.writeFrom]
  | cons v vs ih =>
    simp only [List.length_cons] at hn
    unfold Memory.writeFrom
    rw [ih (m.wf_write h v (by omega)) (by omega), Memory.read_write h]
    by_cases h1 : i ≤ i'
    · by_cases h2 : i' = i
      · subst h2; simp
      · have h3 : i' - i = (i' - (i + 1)) + 1 := by omega
        rw [if_pos (by omega), if_pos h1, h3, List.getElem?_cons_succ, if_neg h2]
    · rw [if_neg (by omega), if_neg h1, if_neg (by omega)]

/-- Canonical memories that read the same are the same data. -/
theorem Memory.ext_from {n lo : Nat} {m m' : Memory α} (h : Memory.wfFrom n lo m = true)
    (h' : Memory.wfFrom n lo m' = true) (hr : ∀ i, i < n → m.read i = m'.read i) : m = m' := by
  induction m generalizing lo m' with
  | nil =>
    cases m' with
    | nil => rfl
    | cons q m' =>
      obtain ⟨b, w⟩ := q
      obtain ⟨-, g2, g3, -⟩ := Memory.wfFrom_cons.mp h'
      exact absurd (by simpa [Memory.read_cons] using (hr b g2).symm) g3
  | cons p m ih =>
    obtain ⟨a, u⟩ := p
    obtain ⟨h1, h2, h3, h4⟩ := Memory.wfFrom_cons.mp h
    cases m' with
    | nil => exact absurd (by simpa [Memory.read_cons] using hr a h2) h3
    | cons q m' =>
      obtain ⟨b, w⟩ := q
      obtain ⟨g1, g2, g3, g4⟩ := Memory.wfFrom_cons.mp h'
      have hab : a = b := by
        rcases Nat.lt_trichotomy a b with hlt | heq | hgt
        · have := hr a h2
          rw [Memory.read_cons, if_pos rfl, Memory.read_cons, if_neg (by omega), Memory.read_below g4 (by omega)] at this
          exact absurd this h3
        · exact heq
        · have := hr b g2
          rw [Memory.read_cons, if_neg (by omega), Memory.read_cons, if_pos rfl, Memory.read_below h4 (by omega)] at this
          exact absurd this.symm g3
      subst hab
      have huw : u = w := by simpa [Memory.read_cons] using hr a h2
      subst huw
      congr 1
      refine ih h4 g4 fun i hi => ?_
      by_cases hia : i = a
      · subst hia; rw [Memory.read_below h4 (by omega), Memory.read_below g4 (by omega)]
      · simpa [Memory.read_cons, hia] using hr i hi

theorem Memory.ext_read {n : Nat} {m m' : Memory α} (h : m.wf n = true) (h' : m'.wf n = true)
    (hr : ∀ i, i < n → m.read i = m'.read i) : m = m' := Memory.ext_from h h' hr

/-! ## `ofFn` -/

/-- The cells of `ofFn` from index `lo` on, `len` of them. -/
theorem Memory.filterMap_range'_spec (f : Nat → α) (len lo n : Nat) (hn : lo + len ≤ n) :
    let m : Memory α := (List.range' lo len).filterMap fun i => if f i = resetValue then none else some (i, f i)
    Memory.wfFrom n lo m = true ∧ ∀ i, m.read i = if lo ≤ i ∧ i < lo + len then f i else resetValue := by
  induction len generalizing lo with
  | zero => exact ⟨rfl, fun i => by rw [if_neg (by omega)]; rfl⟩
  | succ len ih =>
    obtain ⟨hw, hr⟩ := ih (lo + 1) (by omega)
    rw [List.range'_succ, List.filterMap_cons]
    by_cases hf : f lo = resetValue
    · simp only [hf, if_true]
      refine ⟨?_, fun i => ?_⟩
      · revert hw
        generalize List.filterMap _ _ = m
        intro hw
        cases m with
        | nil => rfl
        | cons q m =>
          obtain ⟨a, b⟩ := q
          obtain ⟨g1, g2, g3, g4⟩ := Memory.wfFrom_cons.mp hw
          exact Memory.wfFrom_cons.mpr ⟨by omega, g2, g3, g4⟩
      · rw [hr i]
        by_cases hi : i = lo
        · subst hi; rw [if_neg (by omega), if_pos (by omega), hf]
        · by_cases hc : lo ≤ i ∧ i < lo + (len + 1)
          · rw [if_pos (by omega), if_pos hc]
          · rw [if_neg (by omega), if_neg hc]
    · simp only [hf, if_false]
      refine ⟨Memory.wfFrom_cons.mpr ⟨le_refl _, by omega, hf, hw⟩, fun i => ?_⟩
      rw [Memory.read_cons, hr i]
      by_cases hi : i = lo
      · subst hi; rw [if_pos rfl, if_pos (by omega)]
      · rw [if_neg hi]
        by_cases hc : lo ≤ i ∧ i < lo + (len + 1)
        · rw [if_pos (by omega), if_pos hc]
        · rw [if_neg (by omega), if_neg hc]

@[simp] theorem Memory.wf_ofFn (n : Nat) (f : Nat → α) : (Memory.ofFn n f).wf n = true := by
  have h := (Memory.filterMap_range'_spec f n 0 n (by omega)).1
  rwa [← List.range_eq_range'] at h

theorem Memory.read_ofFn (n : Nat) (f : Nat → α) (i : Nat) :
    (Memory.ofFn n f).read i = if i < n then f i else resetValue := by
  have h := (Memory.filterMap_range'_spec f n 0 n (by omega)).2 i
  rw [← List.range_eq_range'] at h
  unfold Memory.ofFn
  simpa using h

/-- Two functions that agree below `n` give the same memory. -/
theorem Memory.ofFn_congr {n : Nat} {f g : Nat → α} (h : ∀ i, i < n → f i = g i) : Memory.ofFn n f = Memory.ofFn n g :=
  Memory.ext_read (Memory.wf_ofFn n f) (Memory.wf_ofFn n g) fun i hi => by
    rw [Memory.read_ofFn, Memory.read_ofFn, if_pos hi, if_pos hi, h i hi]

end

/-! ## Toggling bits -/

theorem Memory.wf_toggle {n : Nat} {m : Memory Bool} (h : m.wf n = true) {i : Nat} (hn : i < n) :
    (m.toggle i).wf n = true := m.wf_write h _ hn

theorem Memory.read_toggle {n : Nat} {m : Memory Bool} (h : m.wf n = true) (i i' : Nat) :
    (m.toggle i).read i' = Bool.xor (m.read i') (decide (i' = i)) := by
  unfold Memory.toggle
  rw [Memory.read_write h]
  by_cases he : i' = i
  · subst he; simp
  · simp [he]

theorem Memory.wf_toggleAll {n : Nat} {m : Memory Bool} (h : m.wf n = true) (is : List Nat) (hn : ∀ i ∈ is, i < n) :
    (m.toggleAll is).wf n = true := by
  induction is generalizing m with
  | nil => exact h
  | cons i is ih =>
    exact ih (m.wf_toggle h (hn i (by simp))) fun j hj => hn j (by simp [hj])

/-- Toggling a list of bits: a bit is toggled as often as its index stands in the list. -/
theorem Memory.read_toggleAll {n : Nat} {m : Memory Bool} (h : m.wf n = true) (is : List Nat) (hn : ∀ i ∈ is, i < n)
    (i' : Nat) : (m.toggleAll is).read i' = Bool.xor (m.read i') (xorAll (is.map fun i => decide (i' = i))) := by
  induction is generalizing m with
  | nil => simp [Memory.toggleAll, xorAll]
  | cons i is ih =>
    unfold Memory.toggleAll
    rw [ih (m.wf_toggle h (hn i (by simp))) (fun j hj => hn j (by simp [hj])), Memory.read_toggle h]
    simp [xorAll]

end Sys2Proof.Machine
end

