-- ==== Sys2Proof/Laws/State.lean ====
section
/-! SUPPORT. One lemma per field per named update of the state, so that no later proof unfolds a record update. -/

namespace Sys2Proof.Machine

open Sys2Proof

/-! ## answer -/

@[simp] theorem answer_cfg (rw : Word) (s : State) : (answer rw s).cfg = s.cfg := rfl
@[simp] theorem answer_ew (rw : Word) (s : State) : (answer rw s).ew = s.ew := rfl
@[simp] theorem answer_sw (rw : Word) (s : State) : (answer rw s).sw = s.sw := rfl
@[simp] theorem answer_llen (rw : Word) (s : State) : (answer rw s).llen = s.llen := rfl
@[simp] theorem answer_mv (rw : Word) (s : State) : (answer rw s).mv = s.mv := rfl
@[simp] theorem answer_ev (rw : Word) (s : State) : (answer rw s).ev = s.ev := rfl
@[simp] theorem answer_sv (rw : Word) (s : State) : (answer rw s).sv = s.sv := rfl
@[simp] theorem answer_ctv (rw : Word) (s : State) : (answer rw s).ctv = s.ctv := rfl
@[simp] theorem answer_lv (rw : Word) (s : State) : (answer rw s).lv = s.lv := rfl
@[simp] theorem answer_fault (rw : Word) (s : State) : (answer rw s).fault = s.fault := rfl
@[simp] theorem answer_fcode (rw : Word) (s : State) : (answer rw s).fcode = s.fcode := rfl
@[simp] theorem answer_fcmd (rw : Word) (s : State) : (answer rw s).fcmd = s.fcmd := rfl
@[simp] theorem answer_col (rw : Word) (s : State) : (answer rw s).col = s.col := rfl
@[simp] theorem answer_row (rw : Word) (s : State) : (answer rw s).row = s.row := rfl
@[simp] theorem answer_err (rw : Word) (s : State) : (answer rw s).err = s.err := rfl
@[simp] theorem answer_syn (rw : Word) (s : State) : (answer rw s).syn = s.syn := rfl
@[simp] theorem answer_ctr (rw : Word) (s : State) : (answer rw s).ctr = s.ctr := rfl
@[simp] theorem answer_list (rw : Word) (s : State) : (answer rw s).list = s.list := rfl
@[simp] theorem answer_host (rw : Word) (s : State) : (answer rw s).host = s.host.tail := rfl
@[simp] theorem answer_resp (rw : Word) (s : State) : (answer rw s).resp = some rw := rfl

/-! ## respond -/

@[simp] theorem respond_cfg (sub : Byte) (a b : Reg24) (s : State) : (respond sub a b s).cfg = s.cfg := rfl
@[simp] theorem respond_ew (sub : Byte) (a b : Reg24) (s : State) : (respond sub a b s).ew = s.ew := rfl
@[simp] theorem respond_sw (sub : Byte) (a b : Reg24) (s : State) : (respond sub a b s).sw = s.sw := rfl
@[simp] theorem respond_llen (sub : Byte) (a b : Reg24) (s : State) : (respond sub a b s).llen = s.llen := rfl
@[simp] theorem respond_mv (sub : Byte) (a b : Reg24) (s : State) : (respond sub a b s).mv = s.mv := rfl
@[simp] theorem respond_ev (sub : Byte) (a b : Reg24) (s : State) : (respond sub a b s).ev = s.ev := rfl
@[simp] theorem respond_sv (sub : Byte) (a b : Reg24) (s : State) : (respond sub a b s).sv = s.sv := rfl
@[simp] theorem respond_ctv (sub : Byte) (a b : Reg24) (s : State) : (respond sub a b s).ctv = s.ctv := rfl
@[simp] theorem respond_lv (sub : Byte) (a b : Reg24) (s : State) : (respond sub a b s).lv = s.lv := rfl
@[simp] theorem respond_fault (sub : Byte) (a b : Reg24) (s : State) : (respond sub a b s).fault = s.fault := rfl
@[simp] theorem respond_fcode (sub : Byte) (a b : Reg24) (s : State) : (respond sub a b s).fcode = s.fcode := rfl
@[simp] theorem respond_fcmd (sub : Byte) (a b : Reg24) (s : State) : (respond sub a b s).fcmd = s.fcmd := rfl
@[simp] theorem respond_col (sub : Byte) (a b : Reg24) (s : State) : (respond sub a b s).col = s.col := rfl
@[simp] theorem respond_row (sub : Byte) (a b : Reg24) (s : State) : (respond sub a b s).row = s.row := rfl
@[simp] theorem respond_err (sub : Byte) (a b : Reg24) (s : State) : (respond sub a b s).err = s.err := rfl
@[simp] theorem respond_syn (sub : Byte) (a b : Reg24) (s : State) : (respond sub a b s).syn = s.syn := rfl
@[simp] theorem respond_ctr (sub : Byte) (a b : Reg24) (s : State) : (respond sub a b s).ctr = s.ctr := rfl
@[simp] theorem respond_list (sub : Byte) (a b : Reg24) (s : State) : (respond sub a b s).list = s.list := rfl
@[simp] theorem respond_host (sub : Byte) (a b : Reg24) (s : State) : (respond sub a b s).host = s.host.tail := rfl
@[simp] theorem respond_resp (sub : Byte) (a b : Reg24) (s : State) : (respond sub a b s).resp = some (wordOf 0x00 sub a b) := rfl

/-! ## resetAll -/

@[simp] theorem resetAll_cfg (s : State) : (resetAll s).cfg = s.cfg := rfl
@[simp] theorem resetAll_ew (s : State) : (resetAll s).ew = (State.resetOf s.cfg).ew := rfl
@[simp] theorem resetAll_sw (s : State) : (resetAll s).sw = (State.resetOf s.cfg).sw := rfl
@[simp] theorem resetAll_llen (s : State) : (resetAll s).llen = (State.resetOf s.cfg).llen := rfl
@[simp] theorem resetAll_mv (s : State) : (resetAll s).mv = (State.resetOf s.cfg).mv := rfl
@[simp] theorem resetAll_ev (s : State) : (resetAll s).ev = (State.resetOf s.cfg).ev := rfl
@[simp] theorem resetAll_sv (s : State) : (resetAll s).sv = (State.resetOf s.cfg).sv := rfl
@[simp] theorem resetAll_ctv (s : State) : (resetAll s).ctv = (State.resetOf s.cfg).ctv := rfl
@[simp] theorem resetAll_lv (s : State) : (resetAll s).lv = (State.resetOf s.cfg).lv := rfl
@[simp] theorem resetAll_fault (s : State) : (resetAll s).fault = (State.resetOf s.cfg).fault := rfl
@[simp] theorem resetAll_fcode (s : State) : (resetAll s).fcode = (State.resetOf s.cfg).fcode := rfl
@[simp] theorem resetAll_fcmd (s : State) : (resetAll s).fcmd = (State.resetOf s.cfg).fcmd := rfl
@[simp] theorem resetAll_col (s : State) : (resetAll s).col = (State.resetOf s.cfg).col := rfl
@[simp] theorem resetAll_row (s : State) : (resetAll s).row = (State.resetOf s.cfg).row := rfl
@[simp] theorem resetAll_err (s : State) : (resetAll s).err = (State.resetOf s.cfg).err := rfl
@[simp] theorem resetAll_syn (s : State) : (resetAll s).syn = (State.resetOf s.cfg).syn := rfl
@[simp] theorem resetAll_ctr (s : State) : (resetAll s).ctr = (State.resetOf s.cfg).ctr := rfl
@[simp] theorem resetAll_list (s : State) : (resetAll s).list = (State.resetOf s.cfg).list := rfl
@[simp] theorem resetAll_host (s : State) : (resetAll s).host = s.host := rfl
@[simp] theorem resetAll_resp (s : State) : (resetAll s).resp = (State.resetOf s.cfg).resp := rfl

/-! ## setMatrixValid -/

@[simp] theorem setMatrixValid_cfg (k : Block) (v : Bool) (s : State) : (setMatrixValid k v s).cfg = s.cfg := rfl
@[simp] theorem setMatrixValid_ew (k : Block) (v : Bool) (s : State) : (setMatrixValid k v s).ew = s.ew := rfl
@[simp] theorem setMatrixValid_sw (k : Block) (v : Bool) (s : State) : (setMatrixValid k v s).sw = s.sw := rfl
@[simp] theorem setMatrixValid_llen (k : Block) (v : Bool) (s : State) : (setMatrixValid k v s).llen = s.llen := rfl
@[simp] theorem setMatrixValid_mv (k : Block) (v : Bool) (s : State) : (setMatrixValid k v s).mv = s.mv.set k v := rfl
@[simp] theorem setMatrixValid_ev (k : Block) (v : Bool) (s : State) : (setMatrixValid k v s).ev = s.ev := rfl
@[simp] theorem setMatrixValid_sv (k : Block) (v : Bool) (s : State) : (setMatrixValid k v s).sv = s.sv := rfl
@[simp] theorem setMatrixValid_ctv (k : Block) (v : Bool) (s : State) : (setMatrixValid k v s).ctv = s.ctv := rfl
@[simp] theorem setMatrixValid_lv (k : Block) (v : Bool) (s : State) : (setMatrixValid k v s).lv = s.lv := rfl
@[simp] theorem setMatrixValid_fault (k : Block) (v : Bool) (s : State) : (setMatrixValid k v s).fault = s.fault := rfl
@[simp] theorem setMatrixValid_fcode (k : Block) (v : Bool) (s : State) : (setMatrixValid k v s).fcode = s.fcode := rfl
@[simp] theorem setMatrixValid_fcmd (k : Block) (v : Bool) (s : State) : (setMatrixValid k v s).fcmd = s.fcmd := rfl
@[simp] theorem setMatrixValid_col (k : Block) (v : Bool) (s : State) : (setMatrixValid k v s).col = s.col := rfl
@[simp] theorem setMatrixValid_row (k : Block) (v : Bool) (s : State) : (setMatrixValid k v s).row = s.row := rfl
@[simp] theorem setMatrixValid_err (k : Block) (v : Bool) (s : State) : (setMatrixValid k v s).err = s.err := rfl
@[simp] theorem setMatrixValid_syn (k : Block) (v : Bool) (s : State) : (setMatrixValid k v s).syn = s.syn := rfl
@[simp] theorem setMatrixValid_ctr (k : Block) (v : Bool) (s : State) : (setMatrixValid k v s).ctr = s.ctr := rfl
@[simp] theorem setMatrixValid_list (k : Block) (v : Bool) (s : State) : (setMatrixValid k v s).list = s.list := rfl
@[simp] theorem setMatrixValid_host (k : Block) (v : Bool) (s : State) : (setMatrixValid k v s).host = s.host := rfl
@[simp] theorem setMatrixValid_resp (k : Block) (v : Bool) (s : State) : (setMatrixValid k v s).resp = s.resp := rfl

/-! ## toggleError -/

@[simp] theorem toggleError_cfg (k : Block) (j : Nat) (s : State) : (toggleError k j s).cfg = s.cfg := rfl
@[simp] theorem toggleError_ew (k : Block) (j : Nat) (s : State) : (toggleError k j s).ew = if s.errBit k j then s.ew - 1 else s.ew + 1 := rfl
@[simp] theorem toggleError_sw (k : Block) (j : Nat) (s : State) : (toggleError k j s).sw = s.sw := rfl
@[simp] theorem toggleError_llen (k : Block) (j : Nat) (s : State) : (toggleError k j s).llen = s.llen := rfl
@[simp] theorem toggleError_mv (k : Block) (j : Nat) (s : State) : (toggleError k j s).mv = s.mv := rfl
@[simp] theorem toggleError_ev (k : Block) (j : Nat) (s : State) : (toggleError k j s).ev = s.ev := rfl
@[simp] theorem toggleError_sv (k : Block) (j : Nat) (s : State) : (toggleError k j s).sv = s.sv := rfl
@[simp] theorem toggleError_ctv (k : Block) (j : Nat) (s : State) : (toggleError k j s).ctv = s.ctv := rfl
@[simp] theorem toggleError_lv (k : Block) (j : Nat) (s : State) : (toggleError k j s).lv = s.lv := rfl
@[simp] theorem toggleError_fault (k : Block) (j : Nat) (s : State) : (toggleError k j s).fault = s.fault := rfl
@[simp] theorem toggleError_fcode (k : Block) (j : Nat) (s : State) : (toggleError k j s).fcode = s.fcode := rfl
@[simp] theorem toggleError_fcmd (k : Block) (j : Nat) (s : State) : (toggleError k j s).fcmd = s.fcmd := rfl
@[simp] theorem toggleError_col (k : Block) (j : Nat) (s : State) : (toggleError k j s).col = s.col := rfl
@[simp] theorem toggleError_row (k : Block) (j : Nat) (s : State) : (toggleError k j s).row = s.row := rfl
@[simp] theorem toggleError_err (k : Block) (j : Nat) (s : State) : (toggleError k j s).err = s.err.set k ((s.err.get k).toggle j) := rfl
@[simp] theorem toggleError_syn (k : Block) (j : Nat) (s : State) : (toggleError k j s).syn = s.syn := rfl
@[simp] theorem toggleError_ctr (k : Block) (j : Nat) (s : State) : (toggleError k j s).ctr = s.ctr := rfl
@[simp] theorem toggleError_list (k : Block) (j : Nat) (s : State) : (toggleError k j s).list = s.list := rfl
@[simp] theorem toggleError_host (k : Block) (j : Nat) (s : State) : (toggleError k j s).host = s.host := rfl
@[simp] theorem toggleError_resp (k : Block) (j : Nat) (s : State) : (toggleError k j s).resp = s.resp := rfl

/-! ## toggleSyndrome -/

@[simp] theorem toggleSyndrome_cfg (j : Nat) (s : State) : (toggleSyndrome j s).cfg = s.cfg := rfl
@[simp] theorem toggleSyndrome_ew (j : Nat) (s : State) : (toggleSyndrome j s).ew = s.ew := rfl
@[simp] theorem toggleSyndrome_sw (j : Nat) (s : State) : (toggleSyndrome j s).sw = if s.synBit j then s.sw - 1 else s.sw + 1 := rfl
@[simp] theorem toggleSyndrome_llen (j : Nat) (s : State) : (toggleSyndrome j s).llen = s.llen := rfl
@[simp] theorem toggleSyndrome_mv (j : Nat) (s : State) : (toggleSyndrome j s).mv = s.mv := rfl
@[simp] theorem toggleSyndrome_ev (j : Nat) (s : State) : (toggleSyndrome j s).ev = s.ev := rfl
@[simp] theorem toggleSyndrome_sv (j : Nat) (s : State) : (toggleSyndrome j s).sv = s.sv := rfl
@[simp] theorem toggleSyndrome_ctv (j : Nat) (s : State) : (toggleSyndrome j s).ctv = s.ctv := rfl
@[simp] theorem toggleSyndrome_lv (j : Nat) (s : State) : (toggleSyndrome j s).lv = s.lv := rfl
@[simp] theorem toggleSyndrome_fault (j : Nat) (s : State) : (toggleSyndrome j s).fault = s.fault := rfl
@[simp] theorem toggleSyndrome_fcode (j : Nat) (s : State) : (toggleSyndrome j s).fcode = s.fcode := rfl
@[simp] theorem toggleSyndrome_fcmd (j : Nat) (s : State) : (toggleSyndrome j s).fcmd = s.fcmd := rfl
@[simp] theorem toggleSyndrome_col (j : Nat) (s : State) : (toggleSyndrome j s).col = s.col := rfl
@[simp] theorem toggleSyndrome_row (j : Nat) (s : State) : (toggleSyndrome j s).row = s.row := rfl
@[simp] theorem toggleSyndrome_err (j : Nat) (s : State) : (toggleSyndrome j s).err = s.err := rfl
@[simp] theorem toggleSyndrome_syn (j : Nat) (s : State) : (toggleSyndrome j s).syn = s.syn.toggle j := rfl
@[simp] theorem toggleSyndrome_ctr (j : Nat) (s : State) : (toggleSyndrome j s).ctr = s.ctr := rfl
@[simp] theorem toggleSyndrome_list (j : Nat) (s : State) : (toggleSyndrome j s).list = s.list := rfl
@[simp] theorem toggleSyndrome_host (j : Nat) (s : State) : (toggleSyndrome j s).host = s.host := rfl
@[simp] theorem toggleSyndrome_resp (j : Nat) (s : State) : (toggleSyndrome j s).resp = s.resp := rfl

/-! ## loadSyndrome -/

@[simp] theorem loadSyndrome_cfg (V : Nat → Bool) (s : State) : (loadSyndrome V s).cfg = s.cfg := rfl
@[simp] theorem loadSyndrome_ew (V : Nat → Bool) (s : State) : (loadSyndrome V s).ew = s.ew := rfl
@[simp] theorem loadSyndrome_sw (V : Nat → Bool) (s : State) : (loadSyndrome V s).sw = num (popcount s.cfg.R V) := rfl
@[simp] theorem loadSyndrome_llen (V : Nat → Bool) (s : State) : (loadSyndrome V s).llen = s.llen := rfl
@[simp] theorem loadSyndrome_mv (V : Nat → Bool) (s : State) : (loadSyndrome V s).mv = s.mv := rfl
@[simp] theorem loadSyndrome_ev (V : Nat → Bool) (s : State) : (loadSyndrome V s).ev = s.ev := rfl
@[simp] theorem loadSyndrome_sv (V : Nat → Bool) (s : State) : (loadSyndrome V s).sv = s.sv := rfl
@[simp] theorem loadSyndrome_ctv (V : Nat → Bool) (s : State) : (loadSyndrome V s).ctv = s.ctv := rfl
@[simp] theorem loadSyndrome_lv (V : Nat → Bool) (s : State) : (loadSyndrome V s).lv = s.lv := rfl
@[simp] theorem loadSyndrome_fault (V : Nat → Bool) (s : State) : (loadSyndrome V s).fault = s.fault := rfl
@[simp] theorem loadSyndrome_fcode (V : Nat → Bool) (s : State) : (loadSyndrome V s).fcode = s.fcode := rfl
@[simp] theorem loadSyndrome_fcmd (V : Nat → Bool) (s : State) : (loadSyndrome V s).fcmd = s.fcmd := rfl
@[simp] theorem loadSyndrome_col (V : Nat → Bool) (s : State) : (loadSyndrome V s).col = s.col := rfl
@[simp] theorem loadSyndrome_row (V : Nat → Bool) (s : State) : (loadSyndrome V s).row = s.row := rfl
@[simp] theorem loadSyndrome_err (V : Nat → Bool) (s : State) : (loadSyndrome V s).err = s.err := rfl
@[simp] theorem loadSyndrome_syn (V : Nat → Bool) (s : State) : (loadSyndrome V s).syn = Memory.ofFn s.cfg.R V := rfl
@[simp] theorem loadSyndrome_ctr (V : Nat → Bool) (s : State) : (loadSyndrome V s).ctr = s.ctr := rfl
@[simp] theorem loadSyndrome_list (V : Nat → Bool) (s : State) : (loadSyndrome V s).list = s.list := rfl
@[simp] theorem loadSyndrome_host (V : Nat → Bool) (s : State) : (loadSyndrome V s).host = s.host := rfl
@[simp] theorem loadSyndrome_resp (V : Nat → Bool) (s : State) : (loadSyndrome V s).resp = s.resp := rfl

/-! ## flipSyndrome -/

@[simp] theorem flipSyndrome_cfg (k : Block) (j : Nat) (s : State) : (flipSyndrome k j s).cfg = s.cfg := rfl
@[simp] theorem flipSyndrome_ew (k : Block) (j : Nat) (s : State) : (flipSyndrome k j s).ew = s.ew := rfl
@[simp] theorem flipSyndrome_sw (k : Block) (j : Nat) (s : State) : (flipSyndrome k j s).sw = BitVec.ofInt 24 ((s.sw.toNat : Int) + s.cfg.W - 2 * exactCounter k j s) := rfl
@[simp] theorem flipSyndrome_llen (k : Block) (j : Nat) (s : State) : (flipSyndrome k j s).llen = s.llen := rfl
@[simp] theorem flipSyndrome_mv (k : Block) (j : Nat) (s : State) : (flipSyndrome k j s).mv = s.mv := rfl
@[simp] theorem flipSyndrome_ev (k : Block) (j : Nat) (s : State) : (flipSyndrome k j s).ev = s.ev := rfl
@[simp] theorem flipSyndrome_sv (k : Block) (j : Nat) (s : State) : (flipSyndrome k j s).sv = s.sv := rfl
@[simp] theorem flipSyndrome_ctv (k : Block) (j : Nat) (s : State) : (flipSyndrome k j s).ctv = s.ctv := rfl
@[simp] theorem flipSyndrome_lv (k : Block) (j : Nat) (s : State) : (flipSyndrome k j s).lv = s.lv := rfl
@[simp] theorem flipSyndrome_fault (k : Block) (j : Nat) (s : State) : (flipSyndrome k j s).fault = s.fault := rfl
@[simp] theorem flipSyndrome_fcode (k : Block) (j : Nat) (s : State) : (flipSyndrome k j s).fcode = s.fcode := rfl
@[simp] theorem flipSyndrome_fcmd (k : Block) (j : Nat) (s : State) : (flipSyndrome k j s).fcmd = s.fcmd := rfl
@[simp] theorem flipSyndrome_col (k : Block) (j : Nat) (s : State) : (flipSyndrome k j s).col = s.col := rfl
@[simp] theorem flipSyndrome_row (k : Block) (j : Nat) (s : State) : (flipSyndrome k j s).row = s.row := rfl
@[simp] theorem flipSyndrome_err (k : Block) (j : Nat) (s : State) : (flipSyndrome k j s).err = s.err := rfl
@[simp] theorem flipSyndrome_syn (k : Block) (j : Nat) (s : State) : (flipSyndrome k j s).syn = s.syn.toggleAll (columnPattern s.cfg.R (s.sparse .columns k) j) := rfl
@[simp] theorem flipSyndrome_ctr (k : Block) (j : Nat) (s : State) : (flipSyndrome k j s).ctr = s.ctr := rfl
@[simp] theorem flipSyndrome_list (k : Block) (j : Nat) (s : State) : (flipSyndrome k j s).list = s.list := rfl
@[simp] theorem flipSyndrome_host (k : Block) (j : Nat) (s : State) : (flipSyndrome k j s).host = s.host := rfl
@[simp] theorem flipSyndrome_resp (k : Block) (j : Nat) (s : State) : (flipSyndrome k j s).resp = s.resp := rfl

/-! ## clearSnapshot -/

@[simp] theorem clearSnapshot_cfg (s : State) : (clearSnapshot s).cfg = s.cfg := rfl
@[simp] theorem clearSnapshot_ew (s : State) : (clearSnapshot s).ew = s.ew := rfl
@[simp] theorem clearSnapshot_sw (s : State) : (clearSnapshot s).sw = s.sw := rfl
@[simp] theorem clearSnapshot_llen (s : State) : (clearSnapshot s).llen = s.llen := rfl
@[simp] theorem clearSnapshot_mv (s : State) : (clearSnapshot s).mv = s.mv := rfl
@[simp] theorem clearSnapshot_ev (s : State) : (clearSnapshot s).ev = s.ev := rfl
@[simp] theorem clearSnapshot_sv (s : State) : (clearSnapshot s).sv = s.sv := rfl
@[simp] theorem clearSnapshot_ctv (s : State) : (clearSnapshot s).ctv = false := rfl
@[simp] theorem clearSnapshot_lv (s : State) : (clearSnapshot s).lv = ⟨false, false, false⟩ := rfl
@[simp] theorem clearSnapshot_fault (s : State) : (clearSnapshot s).fault = s.fault := rfl
@[simp] theorem clearSnapshot_fcode (s : State) : (clearSnapshot s).fcode = s.fcode := rfl
@[simp] theorem clearSnapshot_fcmd (s : State) : (clearSnapshot s).fcmd = s.fcmd := rfl
@[simp] theorem clearSnapshot_col (s : State) : (clearSnapshot s).col = s.col := rfl
@[simp] theorem clearSnapshot_row (s : State) : (clearSnapshot s).row = s.row := rfl
@[simp] theorem clearSnapshot_err (s : State) : (clearSnapshot s).err = s.err := rfl
@[simp] theorem clearSnapshot_syn (s : State) : (clearSnapshot s).syn = s.syn := rfl
@[simp] theorem clearSnapshot_ctr (s : State) : (clearSnapshot s).ctr = s.ctr := rfl
@[simp] theorem clearSnapshot_list (s : State) : (clearSnapshot s).list = s.list := rfl
@[simp] theorem clearSnapshot_host (s : State) : (clearSnapshot s).host = s.host := rfl
@[simp] theorem clearSnapshot_resp (s : State) : (clearSnapshot s).resp = s.resp := rfl

/-! ## invalidateDerived -/

@[simp] theorem invalidateDerived_cfg (s : State) : (invalidateDerived s).cfg = s.cfg := rfl
@[simp] theorem invalidateDerived_ew (s : State) : (invalidateDerived s).ew = s.ew := rfl
@[simp] theorem invalidateDerived_sw (s : State) : (invalidateDerived s).sw = s.sw := rfl
@[simp] theorem invalidateDerived_llen (s : State) : (invalidateDerived s).llen = s.llen := rfl
@[simp] theorem invalidateDerived_mv (s : State) : (invalidateDerived s).mv = s.mv := rfl
@[simp] theorem invalidateDerived_ev (s : State) : (invalidateDerived s).ev = s.ev := rfl
@[simp] theorem invalidateDerived_sv (s : State) : (invalidateDerived s).sv = false := rfl
@[simp] theorem invalidateDerived_ctv (s : State) : (invalidateDerived s).ctv = false := rfl
@[simp] theorem invalidateDerived_lv (s : State) : (invalidateDerived s).lv = ⟨false, false, false⟩ := rfl
@[simp] theorem invalidateDerived_fault (s : State) : (invalidateDerived s).fault = s.fault := rfl
@[simp] theorem invalidateDerived_fcode (s : State) : (invalidateDerived s).fcode = s.fcode := rfl
@[simp] theorem invalidateDerived_fcmd (s : State) : (invalidateDerived s).fcmd = s.fcmd := rfl
@[simp] theorem invalidateDerived_col (s : State) : (invalidateDerived s).col = s.col := rfl
@[simp] theorem invalidateDerived_row (s : State) : (invalidateDerived s).row = s.row := rfl
@[simp] theorem invalidateDerived_err (s : State) : (invalidateDerived s).err = s.err := rfl
@[simp] theorem invalidateDerived_syn (s : State) : (invalidateDerived s).syn = s.syn := rfl
@[simp] theorem invalidateDerived_ctr (s : State) : (invalidateDerived s).ctr = s.ctr := rfl
@[simp] theorem invalidateDerived_list (s : State) : (invalidateDerived s).list = s.list := rfl
@[simp] theorem invalidateDerived_host (s : State) : (invalidateDerived s).host = s.host := rfl
@[simp] theorem invalidateDerived_resp (s : State) : (invalidateDerived s).resp = s.resp := rfl

/-! ## setErrorValid -/

@[simp] theorem setErrorValid_cfg (s : State) : (setErrorValid s).cfg = s.cfg := rfl
@[simp] theorem setErrorValid_ew (s : State) : (setErrorValid s).ew = s.ew := rfl
@[simp] theorem setErrorValid_sw (s : State) : (setErrorValid s).sw = s.sw := rfl
@[simp] theorem setErrorValid_llen (s : State) : (setErrorValid s).llen = s.llen := rfl
@[simp] theorem setErrorValid_mv (s : State) : (setErrorValid s).mv = s.mv := rfl
@[simp] theorem setErrorValid_ev (s : State) : (setErrorValid s).ev = true := rfl
@[simp] theorem setErrorValid_sv (s : State) : (setErrorValid s).sv = s.sv := rfl
@[simp] theorem setErrorValid_ctv (s : State) : (setErrorValid s).ctv = s.ctv := rfl
@[simp] theorem setErrorValid_lv (s : State) : (setErrorValid s).lv = s.lv := rfl
@[simp] theorem setErrorValid_fault (s : State) : (setErrorValid s).fault = s.fault := rfl
@[simp] theorem setErrorValid_fcode (s : State) : (setErrorValid s).fcode = s.fcode := rfl
@[simp] theorem setErrorValid_fcmd (s : State) : (setErrorValid s).fcmd = s.fcmd := rfl
@[simp] theorem setErrorValid_col (s : State) : (setErrorValid s).col = s.col := rfl
@[simp] theorem setErrorValid_row (s : State) : (setErrorValid s).row = s.row := rfl
@[simp] theorem setErrorValid_err (s : State) : (setErrorValid s).err = s.err := rfl
@[simp] theorem setErrorValid_syn (s : State) : (setErrorValid s).syn = s.syn := rfl
@[simp] theorem setErrorValid_ctr (s : State) : (setErrorValid s).ctr = s.ctr := rfl
@[simp] theorem setErrorValid_list (s : State) : (setErrorValid s).list = s.list := rfl
@[simp] theorem setErrorValid_host (s : State) : (setErrorValid s).host = s.host := rfl
@[simp] theorem setErrorValid_resp (s : State) : (setErrorValid s).resp = s.resp := rfl

/-! ## setSyndromeValid -/

@[simp] theorem setSyndromeValid_cfg (s : State) : (setSyndromeValid s).cfg = s.cfg := rfl
@[simp] theorem setSyndromeValid_ew (s : State) : (setSyndromeValid s).ew = s.ew := rfl
@[simp] theorem setSyndromeValid_sw (s : State) : (setSyndromeValid s).sw = s.sw := rfl
@[simp] theorem setSyndromeValid_llen (s : State) : (setSyndromeValid s).llen = s.llen := rfl
@[simp] theorem setSyndromeValid_mv (s : State) : (setSyndromeValid s).mv = s.mv := rfl
@[simp] theorem setSyndromeValid_ev (s : State) : (setSyndromeValid s).ev = s.ev := rfl
@[simp] theorem setSyndromeValid_sv (s : State) : (setSyndromeValid s).sv = true := rfl
@[simp] theorem setSyndromeValid_ctv (s : State) : (setSyndromeValid s).ctv = s.ctv := rfl
@[simp] theorem setSyndromeValid_lv (s : State) : (setSyndromeValid s).lv = s.lv := rfl
@[simp] theorem setSyndromeValid_fault (s : State) : (setSyndromeValid s).fault = s.fault := rfl
@[simp] theorem setSyndromeValid_fcode (s : State) : (setSyndromeValid s).fcode = s.fcode := rfl
@[simp] theorem setSyndromeValid_fcmd (s : State) : (setSyndromeValid s).fcmd = s.fcmd := rfl
@[simp] theorem setSyndromeValid_col (s : State) : (setSyndromeValid s).col = s.col := rfl
@[simp] theorem setSyndromeValid_row (s : State) : (setSyndromeValid s).row = s.row := rfl
@[simp] theorem setSyndromeValid_err (s : State) : (setSyndromeValid s).err = s.err := rfl
@[simp] theorem setSyndromeValid_syn (s : State) : (setSyndromeValid s).syn = s.syn := rfl
@[simp] theorem setSyndromeValid_ctr (s : State) : (setSyndromeValid s).ctr = s.ctr := rfl
@[simp] theorem setSyndromeValid_list (s : State) : (setSyndromeValid s).list = s.list := rfl
@[simp] theorem setSyndromeValid_host (s : State) : (setSyndromeValid s).host = s.host := rfl
@[simp] theorem setSyndromeValid_resp (s : State) : (setSyndromeValid s).resp = s.resp := rfl

/-! ## setCountersValid -/

@[simp] theorem setCountersValid_cfg (s : State) : (setCountersValid s).cfg = s.cfg := rfl
@[simp] theorem setCountersValid_ew (s : State) : (setCountersValid s).ew = s.ew := rfl
@[simp] theorem setCountersValid_sw (s : State) : (setCountersValid s).sw = s.sw := rfl
@[simp] theorem setCountersValid_llen (s : State) : (setCountersValid s).llen = s.llen := rfl
@[simp] theorem setCountersValid_mv (s : State) : (setCountersValid s).mv = s.mv := rfl
@[simp] theorem setCountersValid_ev (s : State) : (setCountersValid s).ev = s.ev := rfl
@[simp] theorem setCountersValid_sv (s : State) : (setCountersValid s).sv = s.sv := rfl
@[simp] theorem setCountersValid_ctv (s : State) : (setCountersValid s).ctv = true := rfl
@[simp] theorem setCountersValid_lv (s : State) : (setCountersValid s).lv = s.lv := rfl
@[simp] theorem setCountersValid_fault (s : State) : (setCountersValid s).fault = s.fault := rfl
@[simp] theorem setCountersValid_fcode (s : State) : (setCountersValid s).fcode = s.fcode := rfl
@[simp] theorem setCountersValid_fcmd (s : State) : (setCountersValid s).fcmd = s.fcmd := rfl
@[simp] theorem setCountersValid_col (s : State) : (setCountersValid s).col = s.col := rfl
@[simp] theorem setCountersValid_row (s : State) : (setCountersValid s).row = s.row := rfl
@[simp] theorem setCountersValid_err (s : State) : (setCountersValid s).err = s.err := rfl
@[simp] theorem setCountersValid_syn (s : State) : (setCountersValid s).syn = s.syn := rfl
@[simp] theorem setCountersValid_ctr (s : State) : (setCountersValid s).ctr = s.ctr := rfl
@[simp] theorem setCountersValid_list (s : State) : (setCountersValid s).list = s.list := rfl
@[simp] theorem setCountersValid_host (s : State) : (setCountersValid s).host = s.host := rfl
@[simp] theorem setCountersValid_resp (s : State) : (setCountersValid s).resp = s.resp := rfl

/-! ## writeList -/

@[simp] theorem writeList_cfg (L : ListId) (es : List Entry) (s : State) : (writeList L es s).cfg = s.cfg := rfl
@[simp] theorem writeList_ew (L : ListId) (es : List Entry) (s : State) : (writeList L es s).ew = s.ew := rfl
@[simp] theorem writeList_sw (L : ListId) (es : List Entry) (s : State) : (writeList L es s).sw = s.sw := rfl
@[simp] theorem writeList_llen (L : ListId) (es : List Entry) (s : State) : (writeList L es s).llen = s.llen.set L (num es.length) := rfl
@[simp] theorem writeList_mv (L : ListId) (es : List Entry) (s : State) : (writeList L es s).mv = s.mv := rfl
@[simp] theorem writeList_ev (L : ListId) (es : List Entry) (s : State) : (writeList L es s).ev = s.ev := rfl
@[simp] theorem writeList_sv (L : ListId) (es : List Entry) (s : State) : (writeList L es s).sv = s.sv := rfl
@[simp] theorem writeList_ctv (L : ListId) (es : List Entry) (s : State) : (writeList L es s).ctv = s.ctv := rfl
@[simp] theorem writeList_lv (L : ListId) (es : List Entry) (s : State) : (writeList L es s).lv = s.lv.set L true := rfl
@[simp] theorem writeList_fault (L : ListId) (es : List Entry) (s : State) : (writeList L es s).fault = s.fault := rfl
@[simp] theorem writeList_fcode (L : ListId) (es : List Entry) (s : State) : (writeList L es s).fcode = s.fcode := rfl
@[simp] theorem writeList_fcmd (L : ListId) (es : List Entry) (s : State) : (writeList L es s).fcmd = s.fcmd := rfl
@[simp] theorem writeList_col (L : ListId) (es : List Entry) (s : State) : (writeList L es s).col = s.col := rfl
@[simp] theorem writeList_row (L : ListId) (es : List Entry) (s : State) : (writeList L es s).row = s.row := rfl
@[simp] theorem writeList_err (L : ListId) (es : List Entry) (s : State) : (writeList L es s).err = s.err := rfl
@[simp] theorem writeList_syn (L : ListId) (es : List Entry) (s : State) : (writeList L es s).syn = s.syn := rfl
@[simp] theorem writeList_ctr (L : ListId) (es : List Entry) (s : State) : (writeList L es s).ctr = s.ctr := rfl
@[simp] theorem writeList_list (L : ListId) (es : List Entry) (s : State) : (writeList L es s).list = s.list.set L ((s.list.get L).writeFrom 0 es) := rfl
@[simp] theorem writeList_host (L : ListId) (es : List Entry) (s : State) : (writeList L es s).host = s.host := rfl
@[simp] theorem writeList_resp (L : ListId) (es : List Entry) (s : State) : (writeList L es s).resp = s.resp := rfl

/-! ## clearError -/

@[simp] theorem clearError_cfg (s : State) : (clearError s).cfg = s.cfg := rfl
@[simp] theorem clearError_ew (s : State) : (clearError s).ew = 0 := rfl
@[simp] theorem clearError_sw (s : State) : (clearError s).sw = s.sw := rfl
@[simp] theorem clearError_llen (s : State) : (clearError s).llen = s.llen := rfl
@[simp] theorem clearError_mv (s : State) : (clearError s).mv = s.mv := rfl
@[simp] theorem clearError_ev (s : State) : (clearError s).ev = s.ev := rfl
@[simp] theorem clearError_sv (s : State) : (clearError s).sv = s.sv := rfl
@[simp] theorem clearError_ctv (s : State) : (clearError s).ctv = s.ctv := rfl
@[simp] theorem clearError_lv (s : State) : (clearError s).lv = s.lv := rfl
@[simp] theorem clearError_fault (s : State) : (clearError s).fault = s.fault := rfl
@[simp] theorem clearError_fcode (s : State) : (clearError s).fcode = s.fcode := rfl
@[simp] theorem clearError_fcmd (s : State) : (clearError s).fcmd = s.fcmd := rfl
@[simp] theorem clearError_col (s : State) : (clearError s).col = s.col := rfl
@[simp] theorem clearError_row (s : State) : (clearError s).row = s.row := rfl
@[simp] theorem clearError_err (s : State) : (clearError s).err = ⟨[], []⟩ := rfl
@[simp] theorem clearError_syn (s : State) : (clearError s).syn = s.syn := rfl
@[simp] theorem clearError_ctr (s : State) : (clearError s).ctr = s.ctr := rfl
@[simp] theorem clearError_list (s : State) : (clearError s).list = s.list := rfl
@[simp] theorem clearError_host (s : State) : (clearError s).host = s.host := rfl
@[simp] theorem clearError_resp (s : State) : (clearError s).resp = s.resp := rfl

/-! ## clearSyndrome -/

@[simp] theorem clearSyndrome_cfg (s : State) : (clearSyndrome s).cfg = s.cfg := rfl
@[simp] theorem clearSyndrome_ew (s : State) : (clearSyndrome s).ew = s.ew := rfl
@[simp] theorem clearSyndrome_sw (s : State) : (clearSyndrome s).sw = 0 := rfl
@[simp] theorem clearSyndrome_llen (s : State) : (clearSyndrome s).llen = s.llen := rfl
@[simp] theorem clearSyndrome_mv (s : State) : (clearSyndrome s).mv = s.mv := rfl
@[simp] theorem clearSyndrome_ev (s : State) : (clearSyndrome s).ev = s.ev := rfl
@[simp] theorem clearSyndrome_sv (s : State) : (clearSyndrome s).sv = s.sv := rfl
@[simp] theorem clearSyndrome_ctv (s : State) : (clearSyndrome s).ctv = s.ctv := rfl
@[simp] theorem clearSyndrome_lv (s : State) : (clearSyndrome s).lv = s.lv := rfl
@[simp] theorem clearSyndrome_fault (s : State) : (clearSyndrome s).fault = s.fault := rfl
@[simp] theorem clearSyndrome_fcode (s : State) : (clearSyndrome s).fcode = s.fcode := rfl
@[simp] theorem clearSyndrome_fcmd (s : State) : (clearSyndrome s).fcmd = s.fcmd := rfl
@[simp] theorem clearSyndrome_col (s : State) : (clearSyndrome s).col = s.col := rfl
@[simp] theorem clearSyndrome_row (s : State) : (clearSyndrome s).row = s.row := rfl
@[simp] theorem clearSyndrome_err (s : State) : (clearSyndrome s).err = s.err := rfl
@[simp] theorem clearSyndrome_syn (s : State) : (clearSyndrome s).syn = [] := rfl
@[simp] theorem clearSyndrome_ctr (s : State) : (clearSyndrome s).ctr = s.ctr := rfl
@[simp] theorem clearSyndrome_list (s : State) : (clearSyndrome s).list = s.list := rfl
@[simp] theorem clearSyndrome_host (s : State) : (clearSyndrome s).host = s.host := rfl
@[simp] theorem clearSyndrome_resp (s : State) : (clearSyndrome s).resp = s.resp := rfl

/-! ## rebuildCounters -/

@[simp] theorem rebuildCounters_cfg (s : State) : (rebuildCounters s).cfg = s.cfg := rfl
@[simp] theorem rebuildCounters_ew (s : State) : (rebuildCounters s).ew = s.ew := rfl
@[simp] theorem rebuildCounters_sw (s : State) : (rebuildCounters s).sw = s.sw := rfl
@[simp] theorem rebuildCounters_llen (s : State) : (rebuildCounters s).llen = s.llen := rfl
@[simp] theorem rebuildCounters_mv (s : State) : (rebuildCounters s).mv = s.mv := rfl
@[simp] theorem rebuildCounters_ev (s : State) : (rebuildCounters s).ev = s.ev := rfl
@[simp] theorem rebuildCounters_sv (s : State) : (rebuildCounters s).sv = s.sv := rfl
@[simp] theorem rebuildCounters_ctv (s : State) : (rebuildCounters s).ctv = s.ctv := rfl
@[simp] theorem rebuildCounters_lv (s : State) : (rebuildCounters s).lv = s.lv := rfl
@[simp] theorem rebuildCounters_fault (s : State) : (rebuildCounters s).fault = s.fault := rfl
@[simp] theorem rebuildCounters_fcode (s : State) : (rebuildCounters s).fcode = s.fcode := rfl
@[simp] theorem rebuildCounters_fcmd (s : State) : (rebuildCounters s).fcmd = s.fcmd := rfl
@[simp] theorem rebuildCounters_col (s : State) : (rebuildCounters s).col = s.col := rfl
@[simp] theorem rebuildCounters_row (s : State) : (rebuildCounters s).row = s.row := rfl
@[simp] theorem rebuildCounters_err (s : State) : (rebuildCounters s).err = s.err := rfl
@[simp] theorem rebuildCounters_syn (s : State) : (rebuildCounters s).syn = s.syn := rfl
@[simp] theorem rebuildCounters_ctr (s : State) : (rebuildCounters s).ctr = ⟨counterMemory .b0 s, counterMemory .b1 s⟩ := rfl
@[simp] theorem rebuildCounters_list (s : State) : (rebuildCounters s).list = s.list := rfl
@[simp] theorem rebuildCounters_host (s : State) : (rebuildCounters s).host = s.host := rfl
@[simp] theorem rebuildCounters_resp (s : State) : (rebuildCounters s).resp = s.resp := rfl

/-! ## presentWord -/

@[simp] theorem presentWord_cfg (cw : Word) (s : State) : (presentWord cw s).cfg = s.cfg := rfl
@[simp] theorem presentWord_ew (cw : Word) (s : State) : (presentWord cw s).ew = s.ew := rfl
@[simp] theorem presentWord_sw (cw : Word) (s : State) : (presentWord cw s).sw = s.sw := rfl
@[simp] theorem presentWord_llen (cw : Word) (s : State) : (presentWord cw s).llen = s.llen := rfl
@[simp] theorem presentWord_mv (cw : Word) (s : State) : (presentWord cw s).mv = s.mv := rfl
@[simp] theorem presentWord_ev (cw : Word) (s : State) : (presentWord cw s).ev = s.ev := rfl
@[simp] theorem presentWord_sv (cw : Word) (s : State) : (presentWord cw s).sv = s.sv := rfl
@[simp] theorem presentWord_ctv (cw : Word) (s : State) : (presentWord cw s).ctv = s.ctv := rfl
@[simp] theorem presentWord_lv (cw : Word) (s : State) : (presentWord cw s).lv = s.lv := rfl
@[simp] theorem presentWord_fault (cw : Word) (s : State) : (presentWord cw s).fault = s.fault := rfl
@[simp] theorem presentWord_fcode (cw : Word) (s : State) : (presentWord cw s).fcode = s.fcode := rfl
@[simp] theorem presentWord_fcmd (cw : Word) (s : State) : (presentWord cw s).fcmd = s.fcmd := rfl
@[simp] theorem presentWord_col (cw : Word) (s : State) : (presentWord cw s).col = s.col := rfl
@[simp] theorem presentWord_row (cw : Word) (s : State) : (presentWord cw s).row = s.row := rfl
@[simp] theorem presentWord_err (cw : Word) (s : State) : (presentWord cw s).err = s.err := rfl
@[simp] theorem presentWord_syn (cw : Word) (s : State) : (presentWord cw s).syn = s.syn := rfl
@[simp] theorem presentWord_ctr (cw : Word) (s : State) : (presentWord cw s).ctr = s.ctr := rfl
@[simp] theorem presentWord_list (cw : Word) (s : State) : (presentWord cw s).list = s.list := rfl
@[simp] theorem presentWord_host (cw : Word) (s : State) : (presentWord cw s).host = .command cw :: s.host := rfl
@[simp] theorem presentWord_resp (cw : Word) (s : State) : (presentWord cw s).resp = s.resp := rfl

/-! ## setSide -/

@[simp] theorem setSide_cfg (sel : Side) (k : Block) (m : Memory Reg24) (s : State) : (setSide sel k m s).cfg = s.cfg := by
  cases sel <;> rfl
@[simp] theorem setSide_ew (sel : Side) (k : Block) (m : Memory Reg24) (s : State) : (setSide sel k m s).ew = s.ew := by
  cases sel <;> rfl
@[simp] theorem setSide_sw (sel : Side) (k : Block) (m : Memory Reg24) (s : State) : (setSide sel k m s).sw = s.sw := by
  cases sel <;> rfl
@[simp] theorem setSide_llen (sel : Side) (k : Block) (m : Memory Reg24) (s : State) : (setSide sel k m s).llen = s.llen := by
  cases sel <;> rfl
@[simp] theorem setSide_mv (sel : Side) (k : Block) (m : Memory Reg24) (s : State) : (setSide sel k m s).mv = s.mv := by
  cases sel <;> rfl
@[simp] theorem setSide_ev (sel : Side) (k : Block) (m : Memory Reg24) (s : State) : (setSide sel k m s).ev = s.ev := by
  cases sel <;> rfl
@[simp] theorem setSide_sv (sel : Side) (k : Block) (m : Memory Reg24) (s : State) : (setSide sel k m s).sv = s.sv := by
  cases sel <;> rfl
@[simp] theorem setSide_ctv (sel : Side) (k : Block) (m : Memory Reg24) (s : State) : (setSide sel k m s).ctv = s.ctv := by
  cases sel <;> rfl
@[simp] theorem setSide_lv (sel : Side) (k : Block) (m : Memory Reg24) (s : State) : (setSide sel k m s).lv = s.lv := by
  cases sel <;> rfl
@[simp] theorem setSide_fault (sel : Side) (k : Block) (m : Memory Reg24) (s : State) : (setSide sel k m s).fault = s.fault := by
  cases sel <;> rfl
@[simp] theorem setSide_fcode (sel : Side) (k : Block) (m : Memory Reg24) (s : State) : (setSide sel k m s).fcode = s.fcode := by
  cases sel <;> rfl
@[simp] theorem setSide_fcmd (sel : Side) (k : Block) (m : Memory Reg24) (s : State) : (setSide sel k m s).fcmd = s.fcmd := by
  cases sel <;> rfl
@[simp] theorem setSide_err (sel : Side) (k : Block) (m : Memory Reg24) (s : State) : (setSide sel k m s).err = s.err := by
  cases sel <;> rfl
@[simp] theorem setSide_syn (sel : Side) (k : Block) (m : Memory Reg24) (s : State) : (setSide sel k m s).syn = s.syn := by
  cases sel <;> rfl
@[simp] theorem setSide_ctr (sel : Side) (k : Block) (m : Memory Reg24) (s : State) : (setSide sel k m s).ctr = s.ctr := by
  cases sel <;> rfl
@[simp] theorem setSide_list (sel : Side) (k : Block) (m : Memory Reg24) (s : State) : (setSide sel k m s).list = s.list := by
  cases sel <;> rfl
@[simp] theorem setSide_host (sel : Side) (k : Block) (m : Memory Reg24) (s : State) : (setSide sel k m s).host = s.host := by
  cases sel <;> rfl
@[simp] theorem setSide_resp (sel : Side) (k : Block) (m : Memory Reg24) (s : State) : (setSide sel k m s).resp = s.resp := by
  cases sel <;> rfl
@[simp] theorem setSide_columns_col (k : Block) (m : Memory Reg24) (s : State) : (setSide .columns k m s).col = s.col.set k m := rfl
@[simp] theorem setSide_columns_row (k : Block) (m : Memory Reg24) (s : State) : (setSide .columns k m s).row = s.row := rfl
@[simp] theorem setSide_rows_col (k : Block) (m : Memory Reg24) (s : State) : (setSide .rows k m s).col = s.col := rfl
@[simp] theorem setSide_rows_row (k : Block) (m : Memory Reg24) (s : State) : (setSide .rows k m s).row = s.row.set k m := rfl

/-! ## enterFault and raise -/

@[simp] theorem enterFault_cfg (e : FaultCode) (cw : Word) (s : State) : (enterFault e cw s).cfg = s.cfg := by
  unfold enterFault; split <;> rfl
@[simp] theorem enterFault_ew (e : FaultCode) (cw : Word) (s : State) : (enterFault e cw s).ew = s.ew := by
  unfold enterFault; split <;> rfl
@[simp] theorem enterFault_sw (e : FaultCode) (cw : Word) (s : State) : (enterFault e cw s).sw = s.sw := by
  unfold enterFault; split <;> rfl
@[simp] theorem enterFault_llen (e : FaultCode) (cw : Word) (s : State) : (enterFault e cw s).llen = s.llen := by
  unfold enterFault; split <;> rfl
@[simp] theorem enterFault_mv (e : FaultCode) (cw : Word) (s : State) : (enterFault e cw s).mv = s.mv := by
  unfold enterFault; split <;> rfl
@[simp] theorem enterFault_ev (e : FaultCode) (cw : Word) (s : State) : (enterFault e cw s).ev = s.ev := by
  unfold enterFault; split <;> rfl
@[simp] theorem enterFault_sv (e : FaultCode) (cw : Word) (s : State) : (enterFault e cw s).sv = s.sv := by
  unfold enterFault; split <;> rfl
@[simp] theorem enterFault_ctv (e : FaultCode) (cw : Word) (s : State) : (enterFault e cw s).ctv = s.ctv := by
  unfold enterFault; split <;> rfl
@[simp] theorem enterFault_lv (e : FaultCode) (cw : Word) (s : State) : (enterFault e cw s).lv = s.lv := by
  unfold enterFault; split <;> rfl
@[simp] theorem enterFault_col (e : FaultCode) (cw : Word) (s : State) : (enterFault e cw s).col = s.col := by
  unfold enterFault; split <;> rfl
@[simp] theorem enterFault_row (e : FaultCode) (cw : Word) (s : State) : (enterFault e cw s).row = s.row := by
  unfold enterFault; split <;> rfl
@[simp] theorem enterFault_err (e : FaultCode) (cw : Word) (s : State) : (enterFault e cw s).err = s.err := by
  unfold enterFault; split <;> rfl
@[simp] theorem enterFault_syn (e : FaultCode) (cw : Word) (s : State) : (enterFault e cw s).syn = s.syn := by
  unfold enterFault; split <;> rfl
@[simp] theorem enterFault_ctr (e : FaultCode) (cw : Word) (s : State) : (enterFault e cw s).ctr = s.ctr := by
  unfold enterFault; split <;> rfl
@[simp] theorem enterFault_list (e : FaultCode) (cw : Word) (s : State) : (enterFault e cw s).list = s.list := by
  unfold enterFault; split <;> rfl
@[simp] theorem enterFault_host (e : FaultCode) (cw : Word) (s : State) : (enterFault e cw s).host = s.host := by
  unfold enterFault; split <;> rfl
@[simp] theorem enterFault_resp (e : FaultCode) (cw : Word) (s : State) : (enterFault e cw s).resp = s.resp := by
  unfold enterFault; split <;> rfl
@[simp] theorem enterFault_fault (e : FaultCode) (cw : Word) (s : State) : (enterFault e cw s).fault = true := by
  unfold enterFault; split <;> simp_all
@[simp] theorem enterFault_fcode (e : FaultCode) (cw : Word) (s : State) :
    (enterFault e cw s).fcode = if s.fault then s.fcode else e.code := by
  unfold enterFault; split <;> rfl
@[simp] theorem enterFault_fcmd (e : FaultCode) (cw : Word) (s : State) :
    (enterFault e cw s).fcmd = if s.fault then s.fcmd else cw := by
  unfold enterFault; split <;> rfl
@[simp] theorem raise_cfg (e : FaultCode) (cw : Word) (s : State) : (raise e cw s).cfg = s.cfg := by
  simp [raise]
@[simp] theorem raise_ew (e : FaultCode) (cw : Word) (s : State) : (raise e cw s).ew = s.ew := by
  simp [raise]
@[simp] theorem raise_sw (e : FaultCode) (cw : Word) (s : State) : (raise e cw s).sw = s.sw := by
  simp [raise]
@[simp] theorem raise_llen (e : FaultCode) (cw : Word) (s : State) : (raise e cw s).llen = s.llen := by
  simp [raise]
@[simp] theorem raise_mv (e : FaultCode) (cw : Word) (s : State) : (raise e cw s).mv = s.mv := by
  simp [raise]
@[simp] theorem raise_ev (e : FaultCode) (cw : Word) (s : State) : (raise e cw s).ev = s.ev := by
  simp [raise]
@[simp] theorem raise_sv (e : FaultCode) (cw : Word) (s : State) : (raise e cw s).sv = s.sv := by
  simp [raise]
@[simp] theorem raise_ctv (e : FaultCode) (cw : Word) (s : State) : (raise e cw s).ctv = s.ctv := by
  simp [raise]
@[simp] theorem raise_lv (e : FaultCode) (cw : Word) (s : State) : (raise e cw s).lv = s.lv := by
  simp [raise]
@[simp] theorem raise_fault (e : FaultCode) (cw : Word) (s : State) : (raise e cw s).fault = true := by
  simp [raise]
@[simp] theorem raise_fcode (e : FaultCode) (cw : Word) (s : State) : (raise e cw s).fcode = if s.fault then s.fcode else e.code := by
  simp [raise]
@[simp] theorem raise_fcmd (e : FaultCode) (cw : Word) (s : State) : (raise e cw s).fcmd = if s.fault then s.fcmd else cw := by
  simp [raise]
@[simp] theorem raise_col (e : FaultCode) (cw : Word) (s : State) : (raise e cw s).col = s.col := by
  simp [raise]
@[simp] theorem raise_row (e : FaultCode) (cw : Word) (s : State) : (raise e cw s).row = s.row := by
  simp [raise]
@[simp] theorem raise_err (e : FaultCode) (cw : Word) (s : State) : (raise e cw s).err = s.err := by
  simp [raise]
@[simp] theorem raise_syn (e : FaultCode) (cw : Word) (s : State) : (raise e cw s).syn = s.syn := by
  simp [raise]
@[simp] theorem raise_ctr (e : FaultCode) (cw : Word) (s : State) : (raise e cw s).ctr = s.ctr := by
  simp [raise]
@[simp] theorem raise_list (e : FaultCode) (cw : Word) (s : State) : (raise e cw s).list = s.list := by
  simp [raise]
@[simp] theorem raise_host (e : FaultCode) (cw : Word) (s : State) : (raise e cw s).host = s.host.tail := by
  simp [raise]
@[simp] theorem raise_resp (e : FaultCode) (cw : Word) (s : State) : (raise e cw s).resp = some (wordOf e.code 0x00 0 0) := by
  simp [raise]

/-! ## resetByInput -/

@[simp] theorem resetByInput_cfg (s : State) : (resetByInput s).cfg = s.cfg := rfl
@[simp] theorem resetByInput_ew (s : State) : (resetByInput s).ew = (State.resetOf s.cfg).ew := rfl
@[simp] theorem resetByInput_sw (s : State) : (resetByInput s).sw = (State.resetOf s.cfg).sw := rfl
@[simp] theorem resetByInput_llen (s : State) : (resetByInput s).llen = (State.resetOf s.cfg).llen := rfl
@[simp] theorem resetByInput_mv (s : State) : (resetByInput s).mv = (State.resetOf s.cfg).mv := rfl
@[simp] theorem resetByInput_ev (s : State) : (resetByInput s).ev = (State.resetOf s.cfg).ev := rfl
@[simp] theorem resetByInput_sv (s : State) : (resetByInput s).sv = (State.resetOf s.cfg).sv := rfl
@[simp] theorem resetByInput_ctv (s : State) : (resetByInput s).ctv = (State.resetOf s.cfg).ctv := rfl
@[simp] theorem resetByInput_lv (s : State) : (resetByInput s).lv = (State.resetOf s.cfg).lv := rfl
@[simp] theorem resetByInput_fault (s : State) : (resetByInput s).fault = (State.resetOf s.cfg).fault := rfl
@[simp] theorem resetByInput_fcode (s : State) : (resetByInput s).fcode = (State.resetOf s.cfg).fcode := rfl
@[simp] theorem resetByInput_fcmd (s : State) : (resetByInput s).fcmd = (State.resetOf s.cfg).fcmd := rfl
@[simp] theorem resetByInput_col (s : State) : (resetByInput s).col = (State.resetOf s.cfg).col := rfl
@[simp] theorem resetByInput_row (s : State) : (resetByInput s).row = (State.resetOf s.cfg).row := rfl
@[simp] theorem resetByInput_err (s : State) : (resetByInput s).err = (State.resetOf s.cfg).err := rfl
@[simp] theorem resetByInput_syn (s : State) : (resetByInput s).syn = (State.resetOf s.cfg).syn := rfl
@[simp] theorem resetByInput_ctr (s : State) : (resetByInput s).ctr = (State.resetOf s.cfg).ctr := rfl
@[simp] theorem resetByInput_list (s : State) : (resetByInput s).list = (State.resetOf s.cfg).list := rfl
@[simp] theorem resetByInput_host (s : State) : (resetByInput s).host = s.host.tail := rfl
@[simp] theorem resetByInput_resp (s : State) : (resetByInput s).resp = (State.resetOf s.cfg).resp := rfl

/-! ## resetOf -/

@[simp] theorem resetOf_cfg (p : Config.Params) : (State.resetOf p).cfg = p := rfl
@[simp] theorem resetOf_ew (p : Config.Params) : (State.resetOf p).ew = 0 := rfl
@[simp] theorem resetOf_sw (p : Config.Params) : (State.resetOf p).sw = 0 := rfl
@[simp] theorem resetOf_llen (p : Config.Params) : (State.resetOf p).llen = ⟨0, 0, 0⟩ := rfl
@[simp] theorem resetOf_mv (p : Config.Params) : (State.resetOf p).mv = ⟨false, false⟩ := rfl
@[simp] theorem resetOf_ev (p : Config.Params) : (State.resetOf p).ev = false := rfl
@[simp] theorem resetOf_sv (p : Config.Params) : (State.resetOf p).sv = false := rfl
@[simp] theorem resetOf_ctv (p : Config.Params) : (State.resetOf p).ctv = false := rfl
@[simp] theorem resetOf_lv (p : Config.Params) : (State.resetOf p).lv = ⟨false, false, false⟩ := rfl
@[simp] theorem resetOf_fault (p : Config.Params) : (State.resetOf p).fault = false := rfl
@[simp] theorem resetOf_fcode (p : Config.Params) : (State.resetOf p).fcode = 0 := rfl
@[simp] theorem resetOf_fcmd (p : Config.Params) : (State.resetOf p).fcmd = 0 := rfl
@[simp] theorem resetOf_col (p : Config.Params) : (State.resetOf p).col = ⟨[], []⟩ := rfl
@[simp] theorem resetOf_row (p : Config.Params) : (State.resetOf p).row = ⟨[], []⟩ := rfl
@[simp] theorem resetOf_err (p : Config.Params) : (State.resetOf p).err = ⟨[], []⟩ := rfl
@[simp] theorem resetOf_syn (p : Config.Params) : (State.resetOf p).syn = [] := rfl
@[simp] theorem resetOf_ctr (p : Config.Params) : (State.resetOf p).ctr = ⟨[], []⟩ := rfl
@[simp] theorem resetOf_list (p : Config.Params) : (State.resetOf p).list = ⟨[], [], []⟩ := rfl
@[simp] theorem resetOf_host (p : Config.Params) : (State.resetOf p).host = [] := rfl
@[simp] theorem resetOf_resp (p : Config.Params) : (State.resetOf p).resp = none := rfl

end Sys2Proof.Machine
end

