-- ==== Sys2Proof/Laws/Ops.lean ====
section
/-! SUPPORT. The shared operations, each said once: running a command's checks, the port, the reads of the state, the
single flip, flipping a list, writing a list. -/

namespace Sys2Proof.Machine

open Sys2Proof

/-! ## Checks and commands -/

@[simp] theorem firstFailure_nil : firstFailure [] = none := rfl

@[simp] theorem firstFailure_cons (ok : Bool) (e : FaultCode) (cs : List Check) :
    firstFailure ((ok, e) :: cs) = if ok = true then firstFailure cs else some e := rfl

/-- No check fails exactly when every condition holds. -/
theorem firstFailure_eq_none_iff {cs : List Check} : firstFailure cs = none ↔ ∀ c ∈ cs, c.1 = true := by
  induction cs with
  | nil => simp
  | cons c cs ih =>
    obtain ⟨ok, e⟩ := c
    cases ok <;> simp [ih]

/-- A command whose checks pass has its effect. -/
theorem runCommand_of_pass {i : Instr} {cs : List Check} (eff : State → State) (s : State)
    (h : firstFailure cs = none) : runCommand i cs eff s = .next (eff s) := by
  simp [runCommand, h]

/-- A command whose first failing check is `e` takes that fault. -/
theorem runCommand_of_fail {i : Instr} {cs : List Check} (eff : State → State) (s : State) {e : FaultCode}
    (h : firstFailure cs = some e) : runCommand i cs eff s = .next (raise e (encode i) s) := by
  simp [runCommand, h]

/-- Everything a command can do: take the fault of its first failing check, or have its effect. -/
theorem runCommand_cases {i : Instr} {cs : List Check} {eff : State → State} {s t : State}
    (h : runCommand i cs eff s = .next t) :
    (∃ e, firstFailure cs = some e ∧ t = raise e (encode i) s) ∨ (firstFailure cs = none ∧ t = eff s) := by
  cases hf : firstFailure cs with
  | none => rw [runCommand_of_pass eff s hf] at h; exact .inr ⟨rfl, (Host.Outcome.next.inj h).symm⟩
  | some e => rw [runCommand_of_fail eff s hf] at h; exact .inl ⟨e, rfl, (Host.Outcome.next.inj h).symm⟩

/-- An ordinary command in the fault state is refused, whatever its operands. -/
theorem ordinary_of_fault {i : Instr} {cs : List Check} {eff : State → State} {s : State} (h : s.fault = true) :
    ordinary i cs eff s = .next (raise .faulted (encode i) s) := by
  simp [ordinary, notFaulted, runCommand, h]

/-- An ordinary command outside the fault state whose checks pass has its effect. -/
theorem ordinary_of_pass {i : Instr} {cs : List Check} (eff : State → State) {s : State} (h : s.fault = false)
    (hc : firstFailure cs = none) : ordinary i cs eff s = .next (eff s) := by
  simp [ordinary, notFaulted, runCommand, h, hc]

/-- Everything an ordinary command can do. -/
theorem ordinary_cases {i : Instr} {cs : List Check} {eff : State → State} {s t : State}
    (h : ordinary i cs eff s = .next t) :
    (s.fault = true ∧ t = raise .faulted (encode i) s) ∨
    (s.fault = false ∧ ∃ e, firstFailure cs = some e ∧ t = raise e (encode i) s) ∨
    (s.fault = false ∧ firstFailure cs = none ∧ t = eff s) := by
  cases hf : s.fault with
  | true => rw [ordinary_of_fault hf] at h; exact .inl ⟨rfl, (Host.Outcome.next.inj h).symm⟩
  | false =>
    rcases runCommand_cases h with ⟨e, he, ht⟩ | ⟨hn, ht⟩
    · exact .inr (.inl ⟨rfl, e, by simpa [notFaulted, hf] using he, ht⟩)
    · exact .inr (.inr ⟨rfl, by simpa [notFaulted, hf] using hn, ht⟩)

/-! ## The port -/

/-- Everything one step can do: stand idle, take the reset input, or execute the word on the port. -/
theorem step_cases (s : State) :
    (s.host = [] ∧ step s = .next s) ∨
    (∃ rest, s.host = .resetInput :: rest ∧ step s = .next (resetByInput s)) ∨
    (∃ cw rest, s.host = .command cw :: rest ∧ step s = executeWord cw s) := by
  unfold step serveHost
  cases hh : s.host with
  | nil => exact .inl ⟨rfl, rfl⟩
  | cons e rest => cases e with
    | resetInput => exact .inr (.inl ⟨rest, rfl, rfl⟩)
    | command cw => exact .inr (.inr ⟨cw, rest, rfl, rfl⟩)

theorem executeWord_of_ok {cw : Word} {i : Instr} (h : decode cw = .ok i) (s : State) : executeWord cw s = exec i s := by
  simp [executeWord, h]

theorem executeWord_of_error {cw : Word} {e : DecodeError} (h : decode cw = .error e) (s : State) :
    executeWord cw s = .next (raise (wordFault e cw s) cw s) := by
  simp [executeWord, h]

/-! ## Reads of the state -/

/-- The sparse blocks depend on the parameters and the sparse memories alone. -/
theorem State.sparse_congr {s t : State} (hc : t.cfg = s.cfg) (h1 : t.col = s.col) (h2 : t.row = s.row) (sel : Side)
    (k : Block) : t.sparse sel k = s.sparse sel k := by
  cases sel <;> simp [State.sparse, State.sideMemory, hc, h1, h2]

@[simp] theorem State.sparse_length (s : State) (sel : Side) (k : Block) : (s.sparse sel k).length = s.cfg.W := by
  simp [State.sparse]

theorem State.errBit_congr {s t : State} (h : t.err = s.err) (k : Block) (j : Nat) : t.errBit k j = s.errBit k j := by
  simp [State.errBit, h]

theorem State.synBit_congr {s t : State} (h : t.syn = s.syn) (j : Nat) : t.synBit j = s.synBit j := by
  simp [State.synBit, h]

theorem State.entries_congr {s t : State} {L : ListId} (h1 : t.llen.get L = s.llen.get L)
    (h2 : t.list.get L = s.list.get L) : t.entries L = s.entries L := by
  simp [State.entries, State.entry, h1, h2]

@[simp] theorem State.entries_length (s : State) (L : ListId) : (s.entries L).length = (s.llen.get L).toNat := by
  simp [State.entries]

/-- What the exact counter depends on. -/
theorem exactCounter_congr {s t : State} (hc : t.cfg = s.cfg) (h1 : t.col = s.col) (h2 : t.row = s.row)
    (h3 : t.syn = s.syn) (k : Block) (j : Nat) : exactCounter k j t = exactCounter k j s := by
  unfold exactCounter
  rw [hc, State.sparse_congr hc h1 h2, show t.synBit = s.synBit from funext (State.synBit_congr h3)]

/-! ## Toggling an error bit, the syndrome, the flip -/

theorem toggleError_errBit {s : State} {k : Block} (h : (s.err.get k).wf s.cfg.R = true) (j : Nat) (k' : Block)
    (j' : Nat) : (toggleError k j s).errBit k' j' = Bool.xor (s.errBit k' j') (decide (k' = k ∧ j' = j)) := by
  unfold State.errBit
  rw [toggleError_err, Blocks.get_set]
  split
  · next he => subst he; rw [Memory.read_toggle h]; simp
  · next he => simp [he]

theorem toggleSyndrome_synBit {s : State} (h : s.syn.wf s.cfg.R = true) (j j' : Nat) :
    (toggleSyndrome j s).synBit j' = Bool.xor (s.synBit j') (decide (j' = j)) := by
  unfold State.synBit
  rw [toggleSyndrome_syn, Memory.read_toggle h]

theorem loadSyndrome_synBit (V : Nat → Bool) (s : State) (j : Nat) :
    (loadSyndrome V s).synBit j = if j < s.cfg.R then V j else false := by
  unfold State.synBit
  rw [loadSyndrome_syn, Memory.read_ofFn]
  rfl

/-- Every index of a column pattern is a check. -/
theorem columnPattern_lt {R : Nat} (hR : 0 < R) (col : List Nat) (j : Nat) : ∀ i ∈ columnPattern R col j, i < R := by
  intro i hi
  obtain ⟨c, -, rfl⟩ := List.mem_map.mp hi
  exact Nat.mod_lt _ hR

@[simp] theorem flip_cfg (k : Block) (j : Nat) (s : State) : (flip k j s).cfg = s.cfg := rfl
@[simp] theorem flip_llen (k : Block) (j : Nat) (s : State) : (flip k j s).llen = s.llen := rfl
@[simp] theorem flip_mv (k : Block) (j : Nat) (s : State) : (flip k j s).mv = s.mv := rfl
@[simp] theorem flip_ev (k : Block) (j : Nat) (s : State) : (flip k j s).ev = s.ev := rfl
@[simp] theorem flip_sv (k : Block) (j : Nat) (s : State) : (flip k j s).sv = s.sv := rfl
@[simp] theorem flip_ctv (k : Block) (j : Nat) (s : State) : (flip k j s).ctv = s.ctv := rfl
@[simp] theorem flip_lv (k : Block) (j : Nat) (s : State) : (flip k j s).lv = s.lv := rfl
@[simp] theorem flip_fault (k : Block) (j : Nat) (s : State) : (flip k j s).fault = s.fault := rfl
@[simp] theorem flip_fcode (k : Block) (j : Nat) (s : State) : (flip k j s).fcode = s.fcode := rfl
@[simp] theorem flip_fcmd (k : Block) (j : Nat) (s : State) : (flip k j s).fcmd = s.fcmd := rfl
@[simp] theorem flip_col (k : Block) (j : Nat) (s : State) : (flip k j s).col = s.col := rfl
@[simp] theorem flip_row (k : Block) (j : Nat) (s : State) : (flip k j s).row = s.row := rfl
@[simp] theorem flip_ctr (k : Block) (j : Nat) (s : State) : (flip k j s).ctr = s.ctr := rfl
@[simp] theorem flip_list (k : Block) (j : Nat) (s : State) : (flip k j s).list = s.list := rfl
@[simp] theorem flip_host (k : Block) (j : Nat) (s : State) : (flip k j s).host = s.host := rfl
@[simp] theorem flip_resp (k : Block) (j : Nat) (s : State) : (flip k j s).resp = s.resp := rfl

@[simp] theorem flip_err (k : Block) (j : Nat) (s : State) :
    (flip k j s).err = s.err.set k ((s.err.get k).toggle j) := rfl

@[simp] theorem flip_ew (k : Block) (j : Nat) (s : State) :
    (flip k j s).ew = if s.errBit k j then s.ew - 1 else s.ew + 1 := rfl

@[simp] theorem flip_syn (k : Block) (j : Nat) (s : State) :
    (flip k j s).syn = s.syn.toggleAll (columnPattern s.cfg.R (s.sparse .columns k) j) := rfl

/-- The weight a flip leaves: the counter in it is that of the syndrome as it was when the flip started. -/
@[simp] theorem flip_sw (k : Block) (j : Nat) (s : State) :
    (flip k j s).sw = BitVec.ofInt 24 ((s.sw.toNat : Int) + s.cfg.W - 2 * exactCounter k j s) := rfl

theorem flip_errBit {s : State} {k : Block} (h : (s.err.get k).wf s.cfg.R = true) (j : Nat) (k' : Block) (j' : Nat) :
    (flip k j s).errBit k' j' = Bool.xor (s.errBit k' j') (decide (k' = k ∧ j' = j)) :=
  toggleError_errBit h j k' j'

theorem flip_synBit {s : State} (hR : 0 < s.cfg.R) (h : s.syn.wf s.cfg.R = true) (k : Block) (j a : Nat) :
    (flip k j s).synBit a =
      Bool.xor (s.synBit a) (xorAll ((columnPattern s.cfg.R (s.sparse .columns k) j).map fun i => decide (a = i))) := by
  unfold State.synBit
  rw [flip_syn, Memory.read_toggleAll h _ (columnPattern_lt hR _ j)]

/-- A flip keeps the canonical form of the two memories it writes. -/
theorem flip_wf {s : State} (hR : 0 < s.cfg.R) {k : Block} {j : Nat} (hj : j < s.cfg.R)
    (he : ∀ k', (s.err.get k').wf s.cfg.R = true) (hs : s.syn.wf s.cfg.R = true) :
    (∀ k', ((flip k j s).err.get k').wf s.cfg.R = true) ∧ (flip k j s).syn.wf s.cfg.R = true := by
  refine ⟨fun k' => ?_, ?_⟩
  · rw [flip_err, Blocks.get_set]
    split
    · exact Memory.wf_toggle (he k) hj
    · exact he k'
  · rw [flip_syn]
    exact Memory.wf_toggleAll hs _ (columnPattern_lt hR _ j)

/-! ## Flipping a list -/

@[simp] theorem flipEntries_nil (s : State) : flipEntries [] s = s := rfl

@[simp] theorem flipEntries_cons (e : Entry) (es : List Entry) (s : State) :
    flipEntries (e :: es) s = flipEntries es (flip e.k e.j.toNat s) := rfl

/-- What flipping a list changes: the error vector, the syndrome and their weights. -/
theorem flipEntries_frame (es : List Entry) (s t : State) (ht : t = flipEntries es s) :
    { t with ew := s.ew, sw := s.sw, err := s.err, syn := s.syn } = s := by
  induction es generalizing s with
  | nil => subst ht; rfl
  | cons e es ih =>
    have h := ih (flip e.k e.j.toNat s) ht
    clear ih ht
    cases t
    cases s
    simp only [State.mk.injEq] at h ⊢
    simpa [flip, flipSyndrome, toggleError] using h

@[simp] theorem flipEntries_cfg (es : List Entry) (s : State) : (flipEntries es s).cfg = s.cfg := by
  have h := congrArg State.cfg (flipEntries_frame es s _ rfl)
  exact h
@[simp] theorem flipEntries_llen (es : List Entry) (s : State) : (flipEntries es s).llen = s.llen := by
  have h := congrArg State.llen (flipEntries_frame es s _ rfl)
  exact h
@[simp] theorem flipEntries_mv (es : List Entry) (s : State) : (flipEntries es s).mv = s.mv := by
  have h := congrArg State.mv (flipEntries_frame es s _ rfl)
  exact h
@[simp] theorem flipEntries_ev (es : List Entry) (s : State) : (flipEntries es s).ev = s.ev := by
  have h := congrArg State.ev (flipEntries_frame es s _ rfl)
  exact h
@[simp] theorem flipEntries_sv (es : List Entry) (s : State) : (flipEntries es s).sv = s.sv := by
  have h := congrArg State.sv (flipEntries_frame es s _ rfl)
  exact h
@[simp] theorem flipEntries_ctv (es : List Entry) (s : State) : (flipEntries es s).ctv = s.ctv := by
  have h := congrArg State.ctv (flipEntries_frame es s _ rfl)
  exact h
@[simp] theorem flipEntries_lv (es : List Entry) (s : State) : (flipEntries es s).lv = s.lv := by
  have h := congrArg State.lv (flipEntries_frame es s _ rfl)
  exact h
@[simp] theorem flipEntries_fault (es : List Entry) (s : State) : (flipEntries es s).fault = s.fault := by
  have h := congrArg State.fault (flipEntries_frame es s _ rfl)
  exact h
@[simp] theorem flipEntries_fcode (es : List Entry) (s : State) : (flipEntries es s).fcode = s.fcode := by
  have h := congrArg State.fcode (flipEntries_frame es s _ rfl)
  exact h
@[simp] theorem flipEntries_fcmd (es : List Entry) (s : State) : (flipEntries es s).fcmd = s.fcmd := by
  have h := congrArg State.fcmd (flipEntries_frame es s _ rfl)
  exact h
@[simp] theorem flipEntries_col (es : List Entry) (s : State) : (flipEntries es s).col = s.col := by
  have h := congrArg State.col (flipEntries_frame es s _ rfl)
  exact h
@[simp] theorem flipEntries_row (es : List Entry) (s : State) : (flipEntries es s).row = s.row := by
  have h := congrArg State.row (flipEntries_frame es s _ rfl)
  exact h
@[simp] theorem flipEntries_ctr (es : List Entry) (s : State) : (flipEntries es s).ctr = s.ctr := by
  have h := congrArg State.ctr (flipEntries_frame es s _ rfl)
  exact h
@[simp] theorem flipEntries_list (es : List Entry) (s : State) : (flipEntries es s).list = s.list := by
  have h := congrArg State.list (flipEntries_frame es s _ rfl)
  exact h
@[simp] theorem flipEntries_host (es : List Entry) (s : State) : (flipEntries es s).host = s.host := by
  have h := congrArg State.host (flipEntries_frame es s _ rfl)
  exact h
@[simp] theorem flipEntries_resp (es : List Entry) (s : State) : (flipEntries es s).resp = s.resp := by
  have h := congrArg State.resp (flipEntries_frame es s _ rfl)
  exact h

/-! ## Writing a list -/

/-- After writing list `L` its entries are the selection. -/
theorem writeList_entries {L : ListId} {es : List Entry} {s : State} (h : (s.list.get L).wf s.cfg.N = true)
    (hn : es.length ≤ s.cfg.N) (h24 : es.length < 2 ^ 24) : (writeList L es s).entries L = es := by
  have hlen : ((writeList L es s).llen.get L).toNat = es.length := by
    rw [writeList_llen, Lists.get_set_same, num, BitVec.toNat_ofNat, Nat.mod_eq_of_lt h24]
  refine List.ext_getElem (by rw [State.entries_length, hlen]) fun i h1 h2 => ?_
  rw [State.entries_length, hlen] at h1
  simp only [State.entries, List.getElem_map, List.getElem_range, State.entry, writeList_list, Lists.get_set_same]
  rw [Memory.read_writeFrom h es (by omega)]
  simp [h1]

/-- Entries beyond the selection keep their contents. -/
theorem writeList_entry_beyond {L : ListId} {es : List Entry} {s : State} (h : (s.list.get L).wf s.cfg.N = true)
    (hn : es.length ≤ s.cfg.N) {i : Nat} (hi : es.length ≤ i) : (writeList L es s).entry L i = s.entry L i := by
  simp only [State.entry, writeList_list, Lists.get_set_same]
  rw [Memory.read_writeFrom h es (by omega)]
  simp [hi]

/-- Another list keeps its entries. -/
theorem writeList_entries_other {L L' : ListId} (es : List Entry) (s : State) (h : L' ≠ L) :
    (writeList L es s).entries L' = s.entries L' :=
  State.entries_congr (by rw [writeList_llen, Lists.get_set_ne _ _ h]) (by rw [writeList_list, Lists.get_set_ne _ _ h])

end Sys2Proof.Machine
end

