-- ==== Sys2Proof/Laws/PerInstr.lean ====
section
/-! SUPPORT. A statement about every instruction as syntax, made per constructor. -/

namespace Sys2Proof.Laws.ReservedZero

open Sys2Proof

/-- The encoding of a well-formed instruction has every reserved bit of its row's format zero (30_encoding.md R72, R76). -/
def Statement (i : Instr) : Prop :=
  i.wellFormed = true → ∃ r, rowOfOp i.opcode = some r ∧ encode i &&& r.format.reserved = 0

/-- An index leaves `sub[7:4]` zero. -/
theorem index_reserved {k : Nat} (h : k < 2 ^ 4) : BitVec.ofNat 8 k &&& 0xF0#8 = 0#8 := by
  have h' : ∀ n : Fin 16, BitVec.ofNat 8 n.val &&& 0xF0#8 = 0#8 := by decide
  exact h' ⟨k, h⟩

/-- A flag and an index leave `sub[7:5]` zero. -/
theorem flagged_reserved {f k : Nat} (hf : f < 2) (h : k < 2 ^ 4) : BitVec.ofNat 8 (16 * f + k) &&& 0xE0#8 = 0#8 := by
  have h' : ∀ n : Fin 32, BitVec.ofNat 8 n.val &&& 0xE0#8 = 0#8 := by decide
  exact h' ⟨16 * f + k, by omega⟩

theorem side_lt (sel : Side) : sel.bit < 2 := by cases sel <;> decide

theorem direction_lt (d : Direction) : d.bit < 2 := by cases d <;> decide

/-- A word whose fields meet the mask in zero. -/
theorem wordOf_and_eq_zero {op sub mask : Byte} {a a' b b' : Reg24} (h : sub &&& mask = 0#8) (ha : a &&& a' = 0#24)
    (hb : b &&& b' = 0#24) : wordOf op sub a b &&& wordOf 0x00 mask a' b' = 0 := by
  rw [wordOf_and, h, ha, hb, show op &&& 0x00 = 0#8 from BitVec.and_zero]
  rfl

theorem rdst (s : Nat) : Statement (.rdst s) := by
  intro _
  exact ⟨_, rfl, wordOf_and_eq_zero (BitVec.and_zero) (by simp [Instr.aOperand]) (by simp [Instr.bOperand])⟩

theorem rdcfg (s : Nat) : Statement (.rdcfg s) := by
  intro _
  exact ⟨_, rfl, wordOf_and_eq_zero (BitVec.and_zero) (by simp [Instr.aOperand]) (by simp [Instr.bOperand])⟩

theorem srst : Statement (.srst) := by
  intro _
  exact ⟨_, rfl, wordOf_and_eq_zero (by rfl) (by simp [Instr.aOperand]) (by simp [Instr.bOperand])⟩

theorem nop : Statement (.nop) := by
  intro _
  exact ⟨_, rfl, wordOf_and_eq_zero (by rfl) (by simp [Instr.aOperand]) (by simp [Instr.bOperand])⟩

theorem wrs (sel : Side) (k : Nat) (l : Nat) (p : Nat) : Statement (.wrs sel k l p) := by
  intro h
  have hk : k < 2 ^ 4 := by simp [Instr.wellFormed, fitsIndex] at h; omega
  exact ⟨_, rfl, wordOf_and_eq_zero (flagged_reserved (side_lt sel) hk) (by simp [Instr.aOperand]) (by simp [Instr.bOperand])⟩

theorem rds (sel : Side) (k : Nat) (l : Nat) : Statement (.rds sel k l) := by
  intro h
  have hk : k < 2 ^ 4 := by simp [Instr.wellFormed, fitsIndex] at h; omega
  exact ⟨_, rfl, wordOf_and_eq_zero (flagged_reserved (side_lt sel) hk) (by simp [Instr.aOperand]) (by simp [Instr.bOperand])⟩

theorem trn (d : Direction) (k : Nat) : Statement (.trn d k) := by
  intro h
  have hk : k < 2 ^ 4 := by simpa [Instr.wellFormed, fitsIndex] using h
  exact ⟨_, rfl, wordOf_and_eq_zero (flagged_reserved (direction_lt d) hk) (by simp [Instr.aOperand]) (by simp [Instr.bOperand])⟩

theorem rdd (sel : Side) (k : Nat) (j : Nat) : Statement (.rdd sel k j) := by
  intro h
  have hk : k < 2 ^ 4 := by simp [Instr.wellFormed, fitsIndex] at h; omega
  exact ⟨_, rfl, wordOf_and_eq_zero (flagged_reserved (side_lt sel) hk) (by simp [Instr.aOperand]) (by simp [Instr.bOperand])⟩

theorem eclr : Statement (.eclr) := by
  intro _
  exact ⟨_, rfl, wordOf_and_eq_zero (by rfl) (by simp [Instr.aOperand]) (by simp [Instr.bOperand])⟩

theorem etog (k : Nat) (j : Nat) : Statement (.etog k j) := by
  intro h
  have hk : k < 2 ^ 4 := by simp [Instr.wellFormed, fitsIndex] at h; omega
  exact ⟨_, rfl, wordOf_and_eq_zero (index_reserved hk) (by simp [Instr.aOperand]) (by simp [Instr.bOperand])⟩

theorem rde (k : Nat) (j : Nat) : Statement (.rde k j) := by
  intro h
  have hk : k < 2 ^ 4 := by simp [Instr.wellFormed, fitsIndex] at h; omega
  exact ⟨_, rfl, wordOf_and_eq_zero (index_reserved hk) (by simp [Instr.aOperand]) (by simp [Instr.bOperand])⟩

theorem rdew : Statement (.rdew) := by
  intro _
  exact ⟨_, rfl, wordOf_and_eq_zero (by rfl) (by simp [Instr.aOperand]) (by simp [Instr.bOperand])⟩

theorem ewchk : Statement (.ewchk) := by
  intro _
  exact ⟨_, rfl, wordOf_and_eq_zero (by rfl) (by simp [Instr.aOperand]) (by simp [Instr.bOperand])⟩

theorem sclr : Statement (.sclr) := by
  intro _
  exact ⟨_, rfl, wordOf_and_eq_zero (by rfl) (by simp [Instr.aOperand]) (by simp [Instr.bOperand])⟩

theorem xacc (k : Nat) : Statement (.xacc k) := by
  intro h
  have hk : k < 2 ^ 4 := by simpa [Instr.wellFormed, fitsIndex] using h
  exact ⟨_, rfl, wordOf_and_eq_zero (index_reserved hk) (by simp [Instr.aOperand]) (by simp [Instr.bOperand])⟩

theorem syn : Statement (.syn) := by
  intro _
  exact ⟨_, rfl, wordOf_and_eq_zero (by rfl) (by simp [Instr.aOperand]) (by simp [Instr.bOperand])⟩

theorem stog (j : Nat) : Statement (.stog j) := by
  intro _
  exact ⟨_, rfl, wordOf_and_eq_zero (by simp [Instr.subOperand]) (by simp [Instr.aOperand]) (by simp [Instr.bOperand])⟩

theorem rdsy (j : Nat) : Statement (.rdsy j) := by
  intro _
  exact ⟨_, rfl, wordOf_and_eq_zero (by simp [Instr.subOperand]) (by simp [Instr.aOperand]) (by simp [Instr.bOperand])⟩

theorem rdsw : Statement (.rdsw) := by
  intro _
  exact ⟨_, rfl, wordOf_and_eq_zero (by rfl) (by simp [Instr.aOperand]) (by simp [Instr.bOperand])⟩

theorem flip (k : Nat) (j : Nat) : Statement (.flip k j) := by
  intro h
  have hk : k < 2 ^ 4 := by simp [Instr.wellFormed, fitsIndex] at h; omega
  exact ⟨_, rfl, wordOf_and_eq_zero (index_reserved hk) (by simp [Instr.aOperand]) (by simp [Instr.bOperand])⟩

theorem cnt : Statement (.cnt) := by
  intro _
  exact ⟨_, rfl, wordOf_and_eq_zero (by rfl) (by simp [Instr.aOperand]) (by simp [Instr.bOperand])⟩

theorem getc (k : Nat) (j : Nat) : Statement (.getc k j) := by
  intro h
  have hk : k < 2 ^ 4 := by simp [Instr.wellFormed, fitsIndex] at h; omega
  exact ⟨_, rfl, wordOf_and_eq_zero (index_reserved hk) (by simp [Instr.aOperand]) (by simp [Instr.bOperand])⟩

theorem rdc (k : Nat) (j : Nat) : Statement (.rdc k j) := by
  intro h
  have hk : k < 2 ^ 4 := by simp [Instr.wellFormed, fitsIndex] at h; omega
  exact ⟨_, rfl, wordOf_and_eq_zero (index_reserved hk) (by simp [Instr.aOperand]) (by simp [Instr.bOperand])⟩

theorem selr (L : Nat) (lo : Nat) (hi : Nat) : Statement (.selr L lo hi) := by
  intro h
  have hk : L < 2 ^ 4 := by simp [Instr.wellFormed, fitsIndex] at h; omega
  exact ⟨_, rfl, wordOf_and_eq_zero (index_reserved hk) (by simp [Instr.aOperand]) (by simp [Instr.bOperand])⟩

theorem topk (L : Nat) (K : Nat) : Statement (.topk L K) := by
  intro h
  have hk : L < 2 ^ 4 := by simp [Instr.wellFormed, fitsIndex] at h; omega
  exact ⟨_, rfl, wordOf_and_eq_zero (index_reserved hk) (by simp [Instr.aOperand]) (by simp [Instr.bOperand])⟩

theorem flipl (L : Nat) : Statement (.flipl L) := by
  intro h
  have hk : L < 2 ^ 4 := by simpa [Instr.wellFormed, fitsIndex] using h
  exact ⟨_, rfl, wordOf_and_eq_zero (index_reserved hk) (by simp [Instr.aOperand]) (by simp [Instr.bOperand])⟩

theorem rdl (L : Nat) (n : Nat) : Statement (.rdl L n) := by
  intro h
  have hk : L < 2 ^ 4 := by simp [Instr.wellFormed, fitsIndex] at h; omega
  exact ⟨_, rfl, wordOf_and_eq_zero (index_reserved hk) (by simp [Instr.aOperand]) (by simp [Instr.bOperand])⟩

theorem rdln (L : Nat) : Statement (.rdln L) := by
  intro h
  have hk : L < 2 ^ 4 := by simpa [Instr.wellFormed, fitsIndex] using h
  exact ⟨_, rfl, wordOf_and_eq_zero (index_reserved hk) (by simp [Instr.aOperand]) (by simp [Instr.bOperand])⟩

end Sys2Proof.Laws.ReservedZero
end

