-- ==== Sys2Proof/Tests/Slice0.lean ====
section
/-! SUPPORT. Tests, and witnesses of the hypotheses of the statements. Expected words and values are the worked examples that
the rules of spec/ give for the configurations C13 (40_block_algebra.md) and REF (44_system.md), unless a comment says that
they were worked out by hand from a rule. -/

namespace Sys2Proof.Tests

open Sys2Proof Sys2Proof.Machine

/-! ## Well-formedness: an ill-formed term for each check -/

theorem test_wf_index : (Instr.xacc 16).wellFormed = false := by decide
theorem test_wf_index_fits : (Instr.xacc 15).wellFormed = true := by decide
theorem test_wf_list : (Instr.rdln 16).wellFormed = false := by decide
theorem test_wf_selector : (Instr.rdst 256).wellFormed = false := by decide
theorem test_wf_selector_cfg : (Instr.rdcfg 256).wellFormed = false := by decide
theorem test_wf_operand_a : (Instr.stog 0x1000000).wellFormed = false := by decide
theorem test_wf_operand_a_fits : (Instr.stog 0xFFFFFF).wellFormed = true := by decide
theorem test_wf_operand_b : (Instr.wrs .columns 0 0 0x1000000).wellFormed = false := by decide
theorem test_wf_operand_hi : (Instr.selr 0 0 0x1000000).wellFormed = false := by decide
theorem test_wf_count : (Instr.topk 0 0x1000000).wellFormed = false := by decide

/-! ## Decoding: a word of every command -/

/-- What a word decodes to. -/
def decoded (cw : Word) : Option Instr :=
  match decode cw with
  | .ok i => some i
  | .error _ => none

theorem test_decode_rdst : decoded 0x0102000000000000 = some (.rdst 2) := by decide
theorem test_decode_rdcfg : decoded 0x0201000000000000 = some (.rdcfg 1) := by decide
theorem test_decode_srst : decoded 0x0300000000000000 = some .srst := by decide
theorem test_decode_nop : decoded 0x0400000000000000 = some .nop := by decide
theorem test_decode_wrs : decoded 0x1001000002000009 = some (.wrs .columns 1 2 9) := by decide
theorem test_decode_rds : decoded 0x1110000001000000 = some (.rds .rows 0 1) := by decide
theorem test_decode_trn : decoded 0x1211000000000000 = some (.trn .backward 1) := by decide
theorem test_decode_rdd : decoded 0x1311000009000000 = some (.rdd .rows 1 9) := by decide
theorem test_decode_eclr : decoded 0x2000000000000000 = some .eclr := by decide
theorem test_decode_etog : decoded 0x2101000009000000 = some (.etog 1 9) := by decide
theorem test_decode_rde : decoded 0x2201000009000000 = some (.rde 1 9) := by decide
theorem test_decode_rdew : decoded 0x2300000000000000 = some .rdew := by decide
theorem test_decode_ewchk : decoded 0x2400000000000000 = some .ewchk := by decide
theorem test_decode_sclr : decoded 0x2800000000000000 = some .sclr := by decide
theorem test_decode_xacc : decoded 0x2901000000000000 = some (.xacc 1) := by decide
theorem test_decode_syn : decoded 0x2A00000000000000 = some .syn := by decide
theorem test_decode_stog : decoded 0x2B00000001000000 = some (.stog 1) := by decide
theorem test_decode_rdsy : decoded 0x2C00000006000000 = some (.rdsy 6) := by decide
theorem test_decode_rdsw : decoded 0x2D00000000000000 = some .rdsw := by decide
theorem test_decode_flip : decoded 0x2E00000005000000 = some (.flip 0 5) := by decide
theorem test_decode_cnt : decoded 0x3000000000000000 = some .cnt := by decide
theorem test_decode_getc : decoded 0x3101000009000000 = some (.getc 1 9) := by decide
theorem test_decode_rdc : decoded 0x3201000009000000 = some (.rdc 1 9) := by decide
theorem test_decode_selr : decoded 0x3800000003FFFFFF = some (.selr 0 3 0xFFFFFF) := by decide
theorem test_decode_topk : decoded 0x3902000005000000 = some (.topk 2 5) := by decide
theorem test_decode_flipl : decoded 0x3A00000000000000 = some (.flipl 0) := by decide
theorem test_decode_rdl : decoded 0x3B01000005000000 = some (.rdl 1 5) := by decide
theorem test_decode_rdln : decoded 0x3C01000000000000 = some (.rdln 1) := by decide

/-- All-zero and all-ones words, and a word with a reserved bit, are no commands (30_encoding.md R75, R76). -/
theorem test_decode_zero : decoded 0x0000000000000000 = none := by decide
theorem test_decode_ones : decoded 0xFFFFFFFFFFFFFFFF = none := by decide
theorem test_decode_reserved_sub : decoded 0x1021000002000009 = none := by decide
theorem test_decode_reserved_b : decoded 0x1110000001000001 = none := by decide

/-- The bytes of a word, lowest address first (20_memory.md R52). -/
theorem test_bytes : bytesOfWord 0x1001000002000009 = [0x09, 0, 0, 0x02, 0, 0, 0x01, 0x10] := by decide
theorem test_bytes_short : wordOfBytes [1, 2, 3, 4, 5, 6, 7] = none := by decide
theorem test_table_word : decodeTableWord 64 0x1211000000000000 = some (.trn .backward 1) := by decide

/-! ## Assembler (30_encoding.md R79 to R81) -/

set_option maxRecDepth 8000 in
theorem test_assemble : assembleLine "  WRS C, 1, 2, 9 # x".toList = some [0x1001000002000009] := by decide
set_option maxRecDepth 8000 in
theorem test_assemble_alias : assembleLine "SELR GRAY, 2, 0x2".toList = some [0x3801000002000002] := by decide
set_option maxRecDepth 8000 in
theorem test_disassemble : disassemble 0x1211000000000000 = "TRN B, 1".toList := by decide

/-! ## States -/

/-- The configuration C13 of 40_block_algebra.md. -/
def c13 : Config.Params := ⟨13, 3, 2⟩

/-- C13 after its blocks, the error bits (0, 5) and (1, 9), `SYN`, `CNT` and `SELR GRAY, 2, 2`: 41_error_syndrome.md R123,
42_counters.md R140, 43_ranking.md R151. -/
def stateA : State :=
  { State.resetOf c13 with
    ew := 2, sw := 4, llen := ⟨0, 6, 0⟩, mv := ⟨true, true⟩, ev := true, sv := true, ctv := true,
    lv := ⟨false, true, false⟩,
    col := ⟨[(1, 1), (2, 4)], [(0, 2), (1, 4), (2, 9)]⟩,
    row := ⟨[(1, 9), (2, 12)], [(0, 4), (1, 9), (2, 11)]⟩,
    err := ⟨[(5, true)], [(9, true)]⟩,
    syn := [(0, true), (6, true), (9, true), (11, true)],
    ctr := ⟨[(0, 1), (2, 1), (5, 2), (6, 1), (7, 1), (8, 1), (9, 2), (10, 1), (11, 1), (12, 1)],
      [(0, 1), (2, 2), (4, 2), (5, 1), (7, 2), (9, 2), (10, 1), (11, 1)]⟩,
    list := ⟨[], [(0, ⟨.b0, 5, 2⟩), (1, ⟨.b0, 9, 2⟩), (2, ⟨.b1, 2, 2⟩), (3, ⟨.b1, 4, 2⟩), (4, ⟨.b1, 7, 2⟩),
      (5, ⟨.b1, 9, 2⟩)], []⟩ }

/-- `stateA` in the fault state. -/
def stateF : State := { stateA with fault := true, fcode := 0x08, fcmd := 0x2A00000000000000 }

/-- `stateA` with a word on the port. -/
def withWord (cw : Word) (s : State) : State := { s with host := [.command cw] }

/-- The next state of an outcome, or the given state where there is none. -/
def nextOr (s : State) : Host.Outcome State Fault Refusal → State
  | .next t => t
  | .fault _ => s
  | .refused _ => s

/-- The state after a command. -/
def after (i : Instr) (s : State) : State := nextOr s (exec i s)

/-- The response to a command. -/
def reply (i : Instr) (s : State) : Option Word := (after i s).resp

/-! ## Reset and the port -/

theorem test_reset_memory_wf : State.reset.syn.wf State.reset.cfg.R = true := by decide
theorem test_reset_config : (State.reset.cfg.R, State.reset.cfg.W, State.reset.cfg.T) = (10163, 71, 134) := by decide
/-- `RDCFG 0` on the reference configuration (44_system.md R168). -/
theorem test_step_rdcfg :
    (nextOr State.reset (step (State.reset.withFetchWord 64 0x0200000000000000))).resp =
      some 0x00000027B3000047 := by decide
/-- Straight after reset `SYN` answers `E_MATRIX` (70_reset_and_hazards.md R202). -/
theorem test_step_syn :
    (nextOr State.reset (step (State.reset.withFetchWord 64 0x2A00000000000000))).resp =
      some 0x0800000000000000 := by decide
theorem test_step_illegal : (nextOr stateA (step (withWord 0 stateA))).fcode = 0x01 := by decide
theorem test_step_illegal_in_fault :
    (nextOr stateF (step (withWord 0 stateF))).resp = some 0xFF00000000000000 := by decide
theorem test_step_reset_input :
    (nextOr stateA (step { stateF with host := [.resetInput] })) = State.resetOf c13 := by decide

/-! ## One step of each command -/

/-- `STATUS` with block 0 loaded and the error vector defined (44_system.md R166). -/
theorem test_rdst : reply (.rdst 0) { State.resetOf c13 with mv := ⟨true, false⟩, ev := true } =
    some 0x0000000005000000 := by decide
theorem test_rdst_fcmd : reply (.rdst 2) stateF = some 0x0000000000002A00 := by decide
theorem test_rdcfg : reply (.rdcfg 0) stateA = some 0x000000000D000003 := by decide
theorem test_rdcfg_range : reply (.rdcfg 3) stateA = some 0x0500000000000000 := by decide
theorem test_srst : (after .srst stateF).sck = State.resetOf c13 := by decide
theorem test_nop : reply .nop stateA = some 0 := by decide
theorem test_nop_fault : reply .nop stateF = some 0xFF00000000000000 := by decide
theorem test_wrs : ((after (.wrs .columns 1 2 8) stateA).col.get .b1).read 2 = 8 := by decide
theorem test_wrs_flags : (after (.wrs .columns 1 2 9) stateA).status = 0x000005 := by decide
theorem test_rds : reply (.rds .rows 0 1) stateA = some 0x0000000000000009 := by decide
theorem test_rds_range : reply (.rds .rows 0 3) stateA = some 0x0500000000000000 := by decide
theorem test_trn : (after (.trn .forward 1) { stateA with row := ⟨[], []⟩ }).sparse .rows .b1 = [4, 9, 11] := by decide
theorem test_trn_sparse : reply (.trn .backward 0) { stateA with row := ⟨[(1, 9), (2, 9)], []⟩ } =
    some 0x0600000000000000 := by decide
theorem test_rdd : reply (.rdd .rows 1 9) stateA = some 1 := by decide
theorem test_rdd_zero : reply (.rdd .columns 0 2) stateA = some 0 := by decide
theorem test_eclr : ((after .eclr stateA).err, (after .eclr stateA).status) = (⟨[], []⟩, 0x000007) := by decide
theorem test_etog : reply (.etog 0 5) { stateA with err := ⟨[], []⟩, ew := 0 } = some 0x0000000001000001 := by decide
theorem test_etog_flags : (after (.etog 0 5) stateA).status = 0x000007 := by decide
theorem test_rde : reply (.rde 1 9) stateA = some 1 := by decide
theorem test_rdew : reply .rdew stateA = some 2 := by decide
theorem test_ewchk : reply .ewchk stateA = some 2 := by decide
theorem test_ewchk_weight : reply .ewchk { stateA with ew := 1 } = some 0x0700000000000000 := by decide
theorem test_sclr : ((after .sclr stateA).syn, (after .sclr stateA).status) = ([], 0x00000F) := by decide
theorem test_xacc : (after (.xacc 0) { stateA with syn := [], sw := 0 }).syn = [(5, true), (6, true), (9, true)] := by decide
theorem test_xacc_both : reply (.xacc 1) { stateA with syn := [(5, true), (6, true), (9, true)], sw := 3 } =
    some 4 := by decide
theorem test_syn : (after .syn { stateA with syn := [], sv := false }).syn = stateA.syn := by decide
theorem test_syn_response : reply .syn { stateA with syn := [], sw := 0, sv := false } = some 4 := by decide
theorem test_stog : reply (.stog 1) stateA = some 0x0000000001000005 := by decide
theorem test_rdsy : reply (.rdsy 6) stateA = some 1 := by decide
theorem test_rdsw : reply .rdsw stateA = some 4 := by decide
theorem test_flip : reply (.flip 0 5) stateA = some 0x0000000002000003 := by decide
theorem test_flip_state : ((after (.flip 0 5) stateA).syn, (after (.flip 0 5) stateA).ew) =
    ([(0, true), (5, true), (11, true)], 1) := by decide
theorem test_cnt : (after .cnt { stateA with ctr := ⟨[], []⟩ }).ctr = stateA.ctr := by decide
theorem test_getc : reply (.getc 0 5) stateA = some 2 := by decide
theorem test_getc_exact : reply (.getc 1 9) (after (.flip 0 5) stateA) = some 3 := by decide
theorem test_rdc : reply (.rdc 1 9) (after (.flip 0 5) stateA) = some 2 := by decide
theorem test_selr : (after (.selr 1 2 2) { stateA with list := ⟨[], [], []⟩ }).list = stateA.list := by decide
theorem test_selr_none : reply (.selr 0 3 0xFFFFFF) stateA = some 0 := by decide
/-- The first five of the six positions whose counter is 2 (43_ranking.md R152). -/
theorem test_topk : (after (.topk 2 5) stateA).list.l2 =
    [(0, ⟨.b0, 5, 2⟩), (1, ⟨.b0, 9, 2⟩), (2, ⟨.b1, 2, 2⟩), (3, ⟨.b1, 4, 2⟩), (4, ⟨.b1, 7, 2⟩)] := by decide
theorem test_topk_range : reply (.topk 2 27) stateA = some 0x0500000000000000 := by decide
/-- Two flips bring the syndrome to zero (43_ranking.md R153). The syndrome of the errors (0, 5) and (1, 6) is that of columns
5 of block 0 and 6 of block 1, worked out by hand: 5, 6, 9 and 8, 10, 2. -/
theorem test_flipl : reply (.flipl 0)
    { stateA with
      err := ⟨[(5, true)], [(6, true)]⟩, sw := 6, llen := ⟨2, 0, 0⟩, lv := ⟨true, false, false⟩,
      syn := [(2, true), (5, true), (6, true), (8, true), (9, true), (10, true)],
      list := ⟨[(0, ⟨.b0, 5, 3⟩), (1, ⟨.b1, 6, 3⟩)], [], []⟩ } = some 0x0000000002000000 := by decide
theorem test_flipl_list : reply (.flipl 0) stateA = some 0x0C00000000000000 := by decide
theorem test_rdl : reply (.rdl 1 5) stateA = some 0x0001000009000002 := by decide
theorem test_rdl_range : reply (.rdl 1 6) stateA = some 0x0500000000000000 := by decide
theorem test_rdln : reply (.rdln 1) stateA = some 6 := by decide
theorem test_rdln_list : reply (.rdln 0) stateA = some 0x0C00000000000000 := by decide

/-! ## Witnesses: states and operands that meet the hypotheses of each statement, clause by clause

In a conjunction the hypotheses that all clauses share come first. `stateA` meets the invariant. -/

theorem stateA_memories : stateA.MemoriesWf where
  col := fun k => by cases k <;> decide
  row := fun k => by cases k <;> decide
  err := fun k => by cases k <;> decide
  syn := by decide
  ctr := fun k => by cases k <;> decide
  list := fun L => by cases L <;> decide

theorem stateA_matrix (k : Block) : stateA.MatrixOk k where
  columns := by cases k <;> decide
  rows := by cases k <;> decide
  dual := by cases k <;> decide

theorem stateA_list (L : ListId) (h : stateA.lv.get L = true) : stateA.ListOk L := by
  cases L
  · exact absurd h (by decide)
  · exact ⟨by decide, by decide, by decide, by decide⟩
  · exact absurd h (by decide)

theorem stateA_inv : stateA.Inv where
  parameters := by decide
  memories := stateA_memories
  positions := fun sel k => by cases sel <;> cases k <;> decide
  matrix := fun k _ => stateA_matrix k
  errorWeight := fun _ => by decide
  syndromeWeight := fun _ => by decide
  counters := fun _ => ⟨fun k => by cases k <;> decide, by decide, by decide, by decide⟩
  lists := stateA_list
  unfaulted := fun _ => by decide
  faulted := fun h => absurd h (by decide)

/-- `stateA` with `NOP` on the port. -/
def stateN : State := { stateA with host := [.command 0x0400000000000000] }

theorem witness_DecodeEncodeRoundTrip : (Instr.wrs .rows 15 0xFFFFFF 0xFFFFFF).wellFormed = true := by decide

theorem witness_EncodeDecodeRoundTrip : decode 0x1001000002000009 = .ok (.wrs .columns 1 2 9) := rfl

/-- Both ends of every range of R75. -/
theorem witness_IllegalOpcodesFault :
    (∀ n ∈ [0x00, 0x05, 0x0F, 0x14, 0x1F, 0x25, 0x27, 0x2F, 0x33, 0x37, 0x3D, 0xFF], IllegalOp n) ∧
    stateA.fault = false ∧ (withWord 0xFF00000000000000 stateA).host = .command 0xFF00000000000000 :: [] ∧
    IllegalOp (opField 0xFF00000000000000).toNat :=
  ⟨by unfold IllegalOp; decide, rfl, rfl, by unfold IllegalOp; decide⟩

theorem witness_ReservedFieldsFault :
    stateA.fault = false ∧ (withWord 0x1021000002000009 stateA).host = .command 0x1021000002000009 :: [] ∧
    (⟨"WRS", 0x1000000000000000, 0xFFE0000000000000⟩ : TableRow) ∈ tableRows ∧
    opField 0x1021000002000009 = opField 0x1000000000000000 ∧
    (0x1021000002000009 : Word) &&& 0xFFE0000000000000 ≠ 0x1000000000000000 := by decide

theorem witness_DecodeAgreesWithOpcodeTable :
    (⟨"WRS", 0x1000000000000000, 0xFFE0000000000000⟩ : TableRow) ∈ tableRows ∧
    (0x1001000002000009 : Word) &&& 0xFFE0000000000000 = 0x1000000000000000 := by decide

theorem witness_StepRunsDecodedCommand :
    stateN.host = .command 0x0400000000000000 :: [] ∧ decode 0x0400000000000000 = .ok .nop := ⟨rfl, rfl⟩

theorem witness_ResetInputResets : ({ stateF with host := [.resetInput] } : State).host = .resetInput :: [] := rfl

theorem witness_EveryStepAnswers : stateA.host = [] ∧ stateN.host = .command 0x0400000000000000 :: [] := ⟨rfl, rfl⟩

theorem witness_UnitsStepIndependently :
    (0 : Nat) ≠ 1 ∧ ∃ us1 us2, stepUnit 0 [stateN, stateN] = .next us1 ∧ stepUnit 1 us1 = .next us2 :=
  ⟨by decide, _, _, rfl, rfl⟩

theorem witness_ResponseDependsOnlyOnSck :
    stateN.sck = ({ stateN with host := [.command 0x0400000000000000, .resetInput], resp := some 1 } : State).sck ∧
    (∃ t, step stateN = .next t) ∧
    ∃ t, step { stateN with host := [.command 0x0400000000000000, .resetInput], resp := some 1 } = .next t :=
  ⟨by decide, ⟨_, rfl⟩, _, rfl⟩

/-- A first fault, and one in the fault state. -/
theorem witness_FaultEntryIsPrecise :
    (∃ t, step (withWord 0 stateA) = .next t ∧ t.resp = some 0x0100000000000000) ∧
    (∃ t, step (withWord 0x0400000000000000 stateF) = .next t ∧ t.resp = some 0xFF00000000000000) ∧
    opField 0x0100000000000000 ≠ 0x00 ∧ opField 0xFF00000000000000 ≠ 0x00 ∧ stateA.fault = false ∧
    stateF.fault = true :=
  ⟨⟨_, rfl, by decide⟩, ⟨_, rfl, by decide⟩, by decide, by decide, by decide, by decide⟩

/-- Refused in the fault state; an illegal opcode; a reserved bit, in the fault state; a command. -/
theorem witness_StatusFollowsFaultTable :
    (stateF.fault = true ∧ opField 0x0400000000000000 ≠ 0x01 ∧ opField 0x0400000000000000 ≠ 0x02 ∧
      opField 0x0400000000000000 ≠ 0x03) ∧
    (stateA.fault = false ∧ ∀ r ∈ tableRows, opField 0x0500000000000000 ≠ opField r.matchBits) ∧
    (opField 0x0300000000000001 = 0x03 ∧
      (⟨"SRST", 0x0300000000000000, 0xFFFFFFFFFFFFFFFF⟩ : TableRow) ∈ tableRows ∧
      (0x0300000000000001 : Word) &&& 0xFFFFFFFFFFFFFFFF ≠ 0x0300000000000000) ∧
    decode 0x0103000000000000 = .ok (.rdst 3) :=
  ⟨by decide, by decide, by decide, rfl⟩

theorem witness_FaultStateRefuses :
    stateF.fault = true ∧ (withWord 0 stateF).host = .command 0 :: [] ∧ opField 0 ≠ 0x01 ∧ opField 0 ≠ 0x02 ∧
    opField 0 ≠ 0x03 ∧ 2 < 3 := by decide

theorem witness_OnlyResetLeavesFaultState :
    stateF.fault = true ∧
    (∃ t, step (withWord 0x0300000000000000 stateF) = .next t ∧ t.fault = false) ∧
    ∃ t, step { stateF with host := [.resetInput] } = .next t ∧ t.fault = false :=
  ⟨by decide, ⟨_, rfl, by decide⟩, _, rfl, by decide⟩

theorem witness_FaultCodesAreTheListed :
    stateF.fcode.toNat ≤ 0x0C ∧
    ∃ t, step (withWord 0x0400000000000000 stateF) = .next t ∧ t.resp = some 0xFF00000000000000 :=
  ⟨by decide, _, rfl, by decide⟩

theorem witness_StatusStraightAfterReset :
    c13.legal ∧ (Instr.wrs .rows 1 2 12).operandsLegal c13 = true ∧ (Instr.topk 2 26).operandsLegal c13 = true ∧
    (⟨2, 1, 0⟩ : Config.Params).legal ∧ (Instr.trn .forward 1).operandsLegal ⟨2, 1, 0⟩ = true := by decide

theorem witness_MemoriesWrittenOnlyByTheirCommands :
    ∃ t, exec (.wrs .columns 1 2 8) stateA = .next t ∧ t.col ≠ stateA.col := ⟨_, rfl, by decide⟩

/-- Every flag changes somewhere. -/
theorem witness_FlagsChangeOnlyByTheirCommands :
    (∃ t, exec (.wrs .columns 1 2 9) stateA = .next t ∧ t.mv.get .b1 ≠ stateA.mv.get .b1 ∧ t.sv ≠ stateA.sv ∧
      t.ctv ≠ stateA.ctv ∧ t.lv.get .l1 ≠ stateA.lv.get .l1) ∧
    ∃ t, exec .srst stateA = .next t ∧ t.ev ≠ stateA.ev :=
  ⟨⟨_, rfl, by decide⟩, _, rfl, by decide⟩

theorem witness_ReadsChangeNothing :
    (Instr.rdl 1 5).readsOnly = true ∧
    ∃ t, exec (.rdl 1 5) stateA = .next t ∧ t.resp = some 0x0001000009000002 ∧ opField 0x0001000009000002 = 0x00 ∧
      ∃ u, exec (.rdl 1 5) t = .next u :=
  ⟨by decide, _, rfl, by decide, by decide, _, rfl⟩

theorem witness_NopDoesNothing : stateA.fault = false ∧ stateF.fault = true := by decide

theorem witness_RdstReadsStatusAndFault : 3 ≤ 3 ∧ stateA.Inv ∧ stateA.fault = false :=
  ⟨by decide, stateA_inv, by decide⟩

theorem witness_RdcfgReadsConfiguration : stateA.cfg.legal ∧ 3 ≤ 3 := by decide

theorem witness_ResetValues : State.resetOf c13 = State.resetOf c13 := rfl

theorem witness_WrsWritesOnePosition :
    stateA.fault = false ∧ 2 ≤ 2 ∧ stateA.cfg.W ≤ 3 ∧ stateA.cfg.R ≤ 13 ∧
    (stateA.cfg.legal ∧ stateA.MemoriesWf ∧ 2 < stateA.cfg.W ∧ 12 < stateA.cfg.R) :=
  ⟨by decide, by decide, by decide, by decide, by decide, stateA_memories, by decide, by decide⟩

theorem witness_RdsReadsOnePosition : stateA.fault = false ∧ 2 ≤ 2 ∧ stateA.cfg.W ≤ 3 ∧ 2 < stateA.cfg.W := by decide

/-- A list with two equal entries, and a valid one. -/
theorem witness_TrnDerivesTranspose :
    stateA.fault = false ∧ 2 ≤ 2 ∧
    validSparse 13 (({ stateA with row := ⟨[(1, 9), (2, 9)], []⟩ } : State).sparse (sourceSide .backward) .b0) = false ∧
    (stateA.cfg.legal ∧ validSparse stateA.cfg.R (stateA.sparse (sourceSide .forward) .b1) = true) ∧
    (stateA.Inv ∧ stateA.mv.get .b1 = true) :=
  ⟨by decide, by decide, by decide, by decide, stateA_inv, by decide⟩

theorem witness_RddReadsDenseBit :
    stateA.fault = false ∧ 2 ≤ 2 ∧ stateA.cfg.R ≤ 13 ∧
    (({ stateA with mv := ⟨false, true⟩ } : State).mv.get .b0 = false) ∧
    (12 < stateA.cfg.R ∧ stateA.mv.get .b0 = true ∧ stateA.MatrixOk .b0) :=
  ⟨by decide, by decide, by decide, by decide, by decide, by decide, stateA_matrix .b0⟩

theorem witness_EclrClearsErrorVector : stateA.fault = false := by decide

theorem witness_EtogTogglesErrorBit :
    stateA.fault = false ∧ 2 ≤ 2 ∧ stateA.cfg.R ≤ 13 ∧ (({ stateA with ev := false } : State).ev = false) ∧
    (stateA.MemoriesWf ∧ stateA.Inv ∧ 12 < stateA.cfg.R ∧ stateA.ev = true ∧
      ∃ t, exec (.etog 1 12) stateA = .next t) :=
  ⟨by decide, by decide, by decide, by decide, stateA_memories, stateA_inv, by decide, by decide, _, rfl⟩

theorem witness_RdeRdewReadErrorVector :
    stateA.fault = false ∧ 2 ≤ 2 ∧ stateA.cfg.R ≤ 13 ∧ (({ stateA with ev := false } : State).ev = false) ∧
    (12 < stateA.cfg.R ∧ stateA.ev = true) := by decide

theorem witness_EwchkChecksWeight :
    stateA.fault = false ∧ (({ stateA with ev := false } : State).ev = false) ∧
    (({ stateA with ew := 1 } : State).ew.toNat ≠ stateA.cfg.T) ∧ (stateA.ev = true ∧ stateA.ew.toNat = stateA.cfg.T) := by
  decide

theorem witness_SclrZeroesSyndrome : stateA.fault = false := by decide

theorem witness_XaccAccumulatesBlock :
    stateA.fault = false ∧ 2 ≤ 2 ∧
    (({ stateA with mv := ⟨true, false⟩ } : State).mv.get .b1 = false) ∧
    (stateA.mv.get .b1 = true ∧ ({ stateA with ev := false } : State).ev = false) ∧
    (stateA.mv.get .b1 = true ∧ stateA.ev = true ∧ ({ stateA with sv := false } : State).sv = false) ∧
    (stateA.cfg.legal ∧ stateA.Inv ∧ stateA.mv.get .b1 = true ∧ stateA.ev = true ∧ stateA.sv = true) :=
  ⟨by decide, by decide, by decide, by decide, by decide, by decide, stateA_inv, by decide⟩

theorem witness_SynComputesSyndrome :
    stateA.fault = false ∧
    ((({ stateA with mv := ⟨false, true⟩ } : State).mv.b0 = false) ∧
      (({ stateA with mv := ⟨true, false⟩ } : State).mv.b1 = false)) ∧
    (stateA.mv.b0 = true ∧ stateA.mv.b1 = true ∧ ({ stateA with ev := false } : State).ev = false) ∧
    (stateA.cfg.legal ∧ stateA.ev = true ∧ stateA.MatrixOk .b0 ∧ stateA.MatrixOk .b1) :=
  ⟨by decide, by decide, by decide, by decide, by decide, stateA_matrix .b0, stateA_matrix .b1⟩

theorem witness_SynIsClearThenAccumulate :
    stateA.fault = false ∧ stateA.mv.b0 = true ∧ stateA.mv.b1 = true ∧ stateA.ev = true := by decide

/-- The error vector of `stateA`, one with the bit (0, 5) alone, and their XOR. -/
theorem witness_SynIsLinear :
    stateA.cfg.legal ∧
    (∀ k j, ({ stateA with err := ⟨[], [(9, true)]⟩, ew := 1 } : State).errBit k j =
      Bool.xor (stateA.errBit k j) (({ stateA with err := ⟨[(5, true)], []⟩, ew := 1 } : State).errBit k j)) ∧
    (∀ s ∈ [stateA, { stateA with err := ⟨[(5, true)], []⟩, ew := 1 },
      { stateA with err := ⟨[], [(9, true)]⟩, ew := 1 }],
      s.fault = false ∧ s.mv.b0 = true ∧ s.mv.b1 = true ∧ s.ev = true ∧ ∃ t, exec .syn s = .next t) := by
  refine ⟨by decide, fun k j => ?_, fun s hs => ?_⟩
  · cases k <;> simp [State.errBit, stateA, Blocks.get, Memory.read_cons, resetValue]
  · simp only [List.mem_cons, List.not_mem_nil, or_false] at hs
    obtain rfl | rfl | rfl := hs <;> exact ⟨rfl, rfl, rfl, rfl, _, rfl⟩

theorem witness_StogTogglesSyndromeBit :
    stateA.fault = false ∧ stateA.cfg.R ≤ 13 ∧ (({ stateA with sv := false } : State).sv = false) ∧
    (stateA.MemoriesWf ∧ 12 < stateA.cfg.R ∧ stateA.sv = true) :=
  ⟨by decide, by decide, by decide, stateA_memories, by decide, by decide⟩

theorem witness_RdsyRdswReadSyndrome :
    stateA.fault = false ∧ stateA.cfg.R ≤ 13 ∧ (({ stateA with sv := false } : State).sv = false) ∧
    (12 < stateA.cfg.R ∧ stateA.sv = true) := by decide

theorem witness_FlipUpdatesIncrementally :
    stateA.fault = false ∧ 2 ≤ 2 ∧ stateA.cfg.R ≤ 13 ∧
    (({ stateA with mv := ⟨false, true⟩ } : State).mv.get .b0 = false) ∧
    (stateA.mv.get .b0 = true ∧ ({ stateA with ev := false } : State).ev = false) ∧
    (stateA.ev = true ∧ ({ stateA with sv := false } : State).sv = false) ∧
    (stateA.Inv ∧ 12 < stateA.cfg.R ∧ stateA.sv = true) :=
  ⟨by decide, by decide, by decide, by decide, by decide, by decide, stateA_inv, by decide, by decide⟩

theorem witness_CntRebuildsSnapshot :
    stateA.fault = false ∧
    ((({ stateA with mv := ⟨false, true⟩ } : State).mv.b0 = false) ∧
      (({ stateA with mv := ⟨true, false⟩ } : State).mv.b1 = false)) ∧
    (stateA.mv.b0 = true ∧ stateA.mv.b1 = true ∧ ({ stateA with sv := false } : State).sv = false) ∧
    stateA.sv = true := by decide

theorem witness_GetcReadsExactCounter :
    stateA.fault = false ∧ 2 ≤ 2 ∧ stateA.cfg.R ≤ 13 ∧
    (({ stateA with mv := ⟨false, true⟩ } : State).mv.get .b0 = false) ∧
    (stateA.mv.get .b0 = true ∧ ({ stateA with sv := false } : State).sv = false) ∧
    (stateA.cfg.legal ∧ stateA.MatrixOk .b0 ∧ 12 < stateA.cfg.R ∧ stateA.sv = true ∧ stateA.ev = true) :=
  ⟨by decide, by decide, by decide, by decide, by decide, by decide, stateA_matrix .b0, by decide, by decide, by decide⟩

theorem witness_RdcReadsSnapshot :
    stateA.fault = false ∧ 2 ≤ 2 ∧ stateA.cfg.R ≤ 13 ∧ (({ stateA with ctv := false } : State).ctv = false) ∧
    (stateA.Inv ∧ 12 < stateA.cfg.R ∧ stateA.ctv = true) :=
  ⟨by decide, by decide, by decide, by decide, stateA_inv, by decide, by decide⟩

theorem witness_SelrSelectsByCounter :
    stateA.fault = false ∧ 3 ≤ 3 ∧ (({ stateA with ctv := false } : State).ctv = false) ∧
    (stateA.cfg.legal ∧ stateA.MemoriesWf ∧ stateA.ctv = true) :=
  ⟨by decide, by decide, by decide, by decide, stateA_memories, by decide⟩

theorem witness_TopkRanksByCounter :
    stateA.fault = false ∧ 3 ≤ 3 ∧ 2 * stateA.cfg.R < 27 ∧ (({ stateA with ctv := false } : State).ctv = false) ∧
    (stateA.cfg.legal ∧ stateA.MemoriesWf ∧ 26 ≤ 2 * stateA.cfg.R ∧ stateA.ctv = true) :=
  ⟨by decide, by decide, by decide, by decide, by decide, stateA_memories, by decide, by decide⟩

theorem witness_FliplFlipsInListOrder :
    stateA.fault = false ∧ 3 ≤ 3 ∧
    ((({ stateA with mv := ⟨false, true⟩ } : State).mv.b0 = false) ∧
      (({ stateA with mv := ⟨true, false⟩ } : State).mv.b1 = false)) ∧
    (stateA.mv.b0 = true ∧ stateA.mv.b1 = true ∧ ({ stateA with ev := false } : State).ev = false) ∧
    (stateA.ev = true ∧ ({ stateA with sv := false } : State).sv = false) ∧
    (stateA.sv = true ∧ stateA.lv.get .l0 = false) ∧ (stateA.lv.get .l1 = true ∧ stateA.Inv) :=
  ⟨by decide, by decide, by decide, by decide, by decide, by decide, by decide, stateA_inv⟩

theorem witness_RdlRdlnReadList :
    stateA.fault = false ∧ 3 ≤ 3 ∧ stateA.lv.get .l0 = false ∧
    (stateA.lv.get .l1 = true ∧ (stateA.llen.get .l1).toNat ≤ 6) ∧
    (stateA.Inv ∧ 5 < (stateA.llen.get .l1).toNat) :=
  ⟨by decide, by decide, by decide, by decide, stateA_inv, by decide⟩

theorem witness_TransposeTwiceIsIdentity :
    validSparse 13 [0, 1, 4] = true ∧
    (stateA.cfg.legal ∧ stateA.MemoriesWf ∧ stateA.fault = false ∧
      validSparse stateA.cfg.R (stateA.sparse .columns .b0) = true) :=
  ⟨by decide, by decide, stateA_memories, by decide, by decide⟩

theorem witness_GatherScatterDuality : validSparse 13 [0, 1, 4] = true ∧ 12 < 13 := by decide

theorem witness_WindowAndParityLaws : (12 < 13 ∧ 12 < 13) ∧ (0 < 13 ∧ 0 < 13) := by decide

theorem witness_CounterClosedForms : validSparse 13 [2, 4, 9] = true ∧ 12 < 13 := by decide

theorem witness_FlipKeepsSyndromeDifference :
    stateA.Inv ∧ stateA.fault = false ∧ stateA.mv.get .b1 = true ∧ stateA.ev = true ∧ stateA.sv = true ∧
    12 < stateA.cfg.R ∧ ∃ t, exec (.flip Block.b1.toNat 12) stateA = .next t :=
  ⟨stateA_inv, by decide, by decide, by decide, by decide, by decide, _, rfl⟩

/-- One of each of the four commands. -/
theorem witness_TogglesUndoThemselves :
    stateA.Inv ∧
    (∃ t, exec (.etog 1 12) stateA = .next t ∧ t.resp = some 0x0000000001000003) ∧
    (∃ t, exec (.stog 1) stateA = .next t ∧ t.resp = some 0x0000000001000005) ∧
    (∃ t, exec (.flip 0 5) stateA = .next t ∧ t.resp = some 0x0000000002000003) ∧
    (∃ t rw, exec (.flipl 1) stateA = .next t ∧ t.resp = some rw ∧ opField rw = 0x00) ∧
    opField 0x0000000001000003 = 0x00 ∧ opField 0x0000000001000005 = 0x00 ∧ opField 0x0000000002000003 = 0x00 :=
  ⟨stateA_inv, ⟨_, rfl, by decide⟩, ⟨_, rfl, by decide⟩, ⟨_, rfl, by decide⟩, ⟨_, _, rfl, rfl, by decide⟩,
    by decide, by decide, by decide⟩

/-- `stateA` with its list in another order. -/
def stateP : State :=
  { stateA with
    list := ⟨[], [(0, ⟨.b1, 9, 2⟩), (1, ⟨.b0, 9, 2⟩), (2, ⟨.b1, 2, 2⟩), (3, ⟨.b1, 4, 2⟩), (4, ⟨.b1, 7, 2⟩),
      (5, ⟨.b0, 5, 2⟩)], []⟩ }

theorem stateP_inv : stateP.Inv :=
  { stateA_inv with
    memories := { stateA_memories with list := fun L => by cases L <;> decide }
    matrix := fun k _ => ⟨(stateA_matrix k).columns, (stateA_matrix k).rows, (stateA_matrix k).dual⟩
    lists := fun L h => by
      cases L
      · exact absurd h (by decide)
      · exact ⟨by decide, by decide, by decide, by decide⟩
      · exact absurd h (by decide) }

theorem witness_FliplOrderIndependent :
    stateA.Inv ∧ stateP.Inv ∧ stateP = { stateA with list := stateP.list } ∧ stateA.fault = false ∧
    stateA.mv.b0 = true ∧ stateA.mv.b1 = true ∧ stateA.ev = true ∧ stateA.sv = true ∧ stateA.lv.get .l1 = true ∧
    ((stateA.entries .l1).map fun e => (e.k, e.j)).Perm ((stateP.entries .l1).map fun e => (e.k, e.j)) ∧
    (∃ t, exec (.flipl ListId.l1.toNat) stateA = .next t) ∧ ∃ t, exec (.flipl ListId.l1.toNat) stateP = .next t :=
  ⟨stateA_inv, stateP_inv, rfl, rfl, rfl, rfl, rfl, rfl, rfl, by decide, ⟨_, rfl⟩, _, rfl⟩

theorem witness_SnapshotAgreesAfterCnt :
    stateA.fault = false ∧ stateA.mv.b0 = true ∧ stateA.mv.b1 = true ∧ stateA.sv = true ∧ 12 < stateA.cfg.R ∧
    ∃ t, exec .cnt stateA = .next t :=
  ⟨rfl, rfl, rfl, rfl, by decide, _, rfl⟩

theorem witness_StepKeepsInvariant : stateA.Inv ∧ ∃ t, step stateA = .next t := ⟨stateA_inv, _, rfl⟩

theorem witness_ResetSatisfiesInvariant : c13.legal ∧ (⟨2, 1, 0⟩ : Config.Params).legal := by decide

theorem witness_PseudoInstructionsExpand : 1 ≤ 1 := by decide

end Sys2Proof.Tests
end

/-! # The shape of a command

Every command is a list of checks, a change of the SCK's state and three response fields. -/

namespace Sys2Proof.Machine

open Sys2Proof

/-! ## Checks, change and response of each command -/

/-- The commands accepted in the fault state (60_exceptions.md R185). -/
def acceptsFaultState : Instr → Bool
  | .rdst _ | .rdcfg _ | .srst => true
  | _ => false

/-- A command's own checks, in order, after the refusal of the fault state (60_exceptions.md R181, R182). -/
def ownChecks (i : Instr) (s : State) : List Check :=
  match i with
  | .rdst sel | .rdcfg sel => [below sel 3]
  | .srst | .nop | .eclr | .sclr => []
  | .wrs _ k l p => [legalBlock k, below l s.cfg.W, below p s.cfg.R]
  | .rds _ k l => [legalBlock k, below l s.cfg.W]
  | .trn d k => [legalBlock k, sourceValid d (blockOf k) s]
  | .rdd _ k j => [legalBlock k, below j s.cfg.R, needMatrix (blockOf k) s]
  | .etog k j | .rde k j => [legalBlock k, below j s.cfg.R, needError s]
  | .rdew => [needError s]
  | .ewchk => [needError s, weightMatches s]
  | .xacc k => [legalBlock k, needMatrix (blockOf k) s, needError s, needSyndrome s]
  | .syn => [needMatrix .b0 s, needMatrix .b1 s, needError s]
  | .stog j | .rdsy j => [below j s.cfg.R, needSyndrome s]
  | .rdsw => [needSyndrome s]
  | .flip k j => [legalBlock k, below j s.cfg.R, needMatrix (blockOf k) s, needError s, needSyndrome s]
  | .cnt => [needMatrix .b0 s, needMatrix .b1 s, needSyndrome s]
  | .getc k j => [legalBlock k, below j s.cfg.R, needMatrix (blockOf k) s, needSyndrome s]
  | .rdc k j => [legalBlock k, below j s.cfg.R, needCounters s]
  | .selr L _ _ => [legalList L, needCounters s]
  | .topk L K => [legalList L, atMost K s.cfg.N, needCounters s]
  | .flipl L => [legalList L, needMatrix .b0 s, needMatrix .b1 s, needError s, needSyndrome s, needList (listOf L) s]
  | .rdl L n => [legalList L, needList (listOf L) s, below n (s.llen.get (listOf L)).toNat]
  | .rdln L => [legalList L, needList (listOf L) s]

/-- All checks of a command (60_exceptions.md R182). -/
def commandChecks (i : Instr) (s : State) : List Check :=
  if acceptsFaultState i then ownChecks i s else notFaulted s :: ownChecks i s

/-- What a command that passes its checks does to the state, the port left alone. -/
def commandEffect (i : Instr) (s : State) : State :=
  match i with
  | .srst => { State.resetOf s.cfg with host := s.host, resp := s.resp }
  | .wrs sel k l p =>
    invalidateDerived (setMatrixValid (blockOf k) false
      (setSide sel (blockOf k) ((s.sideMemory sel (blockOf k)).write l (num p)) s))
  | .trn d k =>
    setMatrixValid (blockOf k) true (setSide (destinationSide d) (blockOf k)
      (sparseMemory s.cfg.W (transpose s.cfg.R (s.sparse (sourceSide d) (blockOf k)))) s)
  | .eclr => invalidateDerived (setErrorValid (clearError s))
  | .etog k j => invalidateDerived (toggleError (blockOf k) j s)
  | .sclr => clearSnapshot (setSyndromeValid (clearSyndrome s))
  | .xacc k => clearSnapshot (loadSyndrome (fun j => Bool.xor (s.synBit j) (blockProduct (blockOf k) s j)) s)
  | .syn =>
    clearSnapshot (setSyndromeValid
      (loadSyndrome (fun j => Bool.xor (blockProduct .b0 s j) (blockProduct .b1 s j)) s))
  | .stog j => toggleSyndrome j s
  | .flip k j => flip (blockOf k) j s
  | .cnt => setCountersValid (rebuildCounters s)
  | .selr L lo hi => writeList (listOf L) (selected lo hi s) s
  | .topk L K => writeList (listOf L) (topRanked K s) s
  | .flipl L => flipEntries (s.entries (listOf L)) s
  | .rdst _ | .rdcfg _ | .nop | .rds _ _ _ | .rdd _ _ _ | .rde _ _ | .rdew | .ewchk | .rdsy _ | .rdsw | .getc _ _
  | .rdc _ _ | .rdl _ _ | .rdln _ => s

/-- The fields `sub`, `a`, `b` of the response of a command that passes its checks. -/
def responseFields (i : Instr) (s : State) : Byte × Reg24 × Reg24 :=
  match i with
  | .rdst sel => (0, statusWords s sel)
  | .rdcfg sel => (0, configWords s.cfg sel)
  | .srst | .nop | .wrs _ _ _ _ | .trn _ _ | .eclr | .sclr | .cnt => (0, 0, 0)
  | .rds sel k l => (0, 0, (s.sideMemory sel (blockOf k)).read l)
  | .rdd sel k j => (0, 0, bitNum (dense (s.sparse sel (blockOf k)) j))
  | .etog k j => (0, bitNum ((commandEffect (.etog k j) s).errBit (blockOf k) j), (commandEffect (.etog k j) s).ew)
  | .rde k j => (0, 0, bitNum (s.errBit (blockOf k) j))
  | .rdew | .ewchk => (0, 0, s.ew)
  | .xacc k => (0, 0, (commandEffect (.xacc k) s).sw)
  | .syn => (0, 0, (commandEffect .syn s).sw)
  | .stog j => (0, bitNum ((commandEffect (.stog j) s).synBit j), (commandEffect (.stog j) s).sw)
  | .rdsy j => (0, 0, bitNum (s.synBit j))
  | .rdsw => (0, 0, s.sw)
  | .flip k j => (0, num (exactCounter (blockOf k) j s), (commandEffect (.flip k j) s).sw)
  | .getc k j => (0, 0, num (exactCounter (blockOf k) j s))
  | .rdc k j => (0, 0, num (s.counter (blockOf k) j))
  | .selr _ lo hi => (0, 0, num (selected lo hi s).length)
  | .topk _ K => (0, 0, num K)
  | .flipl L => (0, (commandEffect (.flipl L) s).llen.get (listOf L), (commandEffect (.flipl L) s).sw)
  | .rdl L n => (BitVec.ofNat 8 (s.entry (listOf L) n).k.toNat, (s.entry (listOf L) n).j, num (s.entry (listOf L) n).c)
  | .rdln L => (0, 0, s.llen.get (listOf L))

/-- A command that passes its checks: its change, then its response. -/
def complete (i : Instr) (s : State) : State :=
  respond (responseFields i s).1 (responseFields i s).2.1 (responseFields i s).2.2 (commandEffect i s)

/-- Every meaning is its checks, its change and its response, and nothing else. -/
theorem exec_eq_runCommand (i : Instr) (s : State) : exec i s = runCommand i (commandChecks i s) (complete i) s := by
  cases i <;> rfl

/-- Everything a command can do: take the fault of its first failing check, or complete. -/
theorem exec_cases (i : Instr) (s : State) :
    (∃ e, firstFailure (commandChecks i s) = some e ∧ exec i s = .next (raise e (encode i) s)) ∨
    (firstFailure (commandChecks i s) = none ∧ exec i s = .next (complete i s)) := by
  rw [exec_eq_runCommand]
  cases hf : firstFailure (commandChecks i s) with
  | none => exact .inr ⟨rfl, runCommand_of_pass _ s hf⟩
  | some e => exact .inl ⟨e, rfl, runCommand_of_fail _ s hf⟩

/-- Everything a command word can do: take a fault, or be a command that completes. -/
theorem executeWord_cases (cw : Word) (s : State) :
    (∃ e w, executeWord cw s = .next (raise e w s)) ∨
    (∃ i, decode cw = .ok i ∧ executeWord cw s = .next (complete i s)) := by
  cases hd : decode cw with
  | error e => exact .inl ⟨_, _, executeWord_of_error hd s⟩
  | ok i =>
    rw [executeWord_of_ok hd]
    rcases exec_cases i s with ⟨e, -, h⟩ | ⟨-, h⟩
    · exact .inl ⟨_, _, h⟩
    · exact .inr ⟨i, rfl, h⟩

/-! ## What no command changes -/

@[simp] theorem commandEffect_cfg (i : Instr) (s : State) : (commandEffect i s).cfg = s.cfg := by
  cases i <;> simp [commandEffect]

@[simp] theorem commandEffect_host (i : Instr) (s : State) : (commandEffect i s).host = s.host := by
  cases i <;> simp [commandEffect]

@[simp] theorem complete_cfg (i : Instr) (s : State) : (complete i s).cfg = s.cfg := by simp [complete]

@[simp] theorem complete_host (i : Instr) (s : State) : (complete i s).host = s.host.tail := by simp [complete]

/-- A command word is consumed and answered, and the parameters stay (00_scope.md R15). -/
theorem executeWord_answers (cw : Word) (s : State) :
    ∃ t, executeWord cw s = .next t ∧ t.cfg = s.cfg ∧ t.host = s.host.tail ∧ ∃ rw, t.resp = some rw := by
  rcases executeWord_cases cw s with ⟨e, w, h⟩ | ⟨i, -, h⟩
  · exact ⟨_, h, raise_cfg e w s, raise_host e w s, _, raise_resp e w s⟩
  · exact ⟨_, h, complete_cfg i s, complete_host i s, _, rfl⟩

/-! ## A command sees the SCK's own state alone (00_scope.md R14) -/

theorem flipEntries_sck (es : List Entry) (s : State) : flipEntries es s.sck = (flipEntries es s).sck := by
  induction es generalizing s with
  | nil => rfl
  | cons e es ih => exact ih (flip e.k e.j.toNat s)

theorem commandEffect_flipl_sck (L : Nat) (s : State) :
    commandEffect (.flipl L) s.sck = (commandEffect (.flipl L) s).sck :=
  flipEntries_sck (s.entries (listOf L)) s

@[simp] theorem commandChecks_sck (i : Instr) (s : State) : commandChecks i s.sck = commandChecks i s := by
  cases i <;> rfl

theorem commandEffect_sck (i : Instr) (s : State) : (commandEffect i s.sck).sck = (commandEffect i s).sck := by
  cases i
  case wrs sel k l p => cases sel <;> rfl
  case trn d k => cases d <;> rfl
  case flipl L =>
    rw [commandEffect_flipl_sck]
    rfl
  all_goals rfl

@[simp] theorem responseFields_sck (i : Instr) (s : State) : responseFields i s.sck = responseFields i s := by
  cases i
  case flipl L =>
    simp only [responseFields, commandEffect_flipl_sck]
    rfl
  all_goals rfl

@[simp] theorem complete_resp (i : Instr) (s : State) :
    (complete i s).resp =
      some (wordOf 0x00 (responseFields i s).1 (responseFields i s).2.1 (responseFields i s).2.2) := rfl

theorem complete_sck (i : Instr) (s : State) : (complete i s).sck = (commandEffect i s).sck := rfl

theorem raise_sck (e : FaultCode) (cw : Word) (s : State) : (raise e cw s).sck = (raise e cw s.sck).sck := by
  unfold raise enterFault
  cases h : s.fault <;> simp [State.sck, answer, h]

theorem wordFault_sck (e : DecodeError) (cw : Word) (s : State) : wordFault e cw s.sck = wordFault e cw s := rfl

/-- What executing a word leaves of the SCK, and its response, in terms of the state without the port. -/
theorem executeWord_sck {cw : Word} {s t : State} (h : executeWord cw s = .next t) :
    ∃ u, executeWord cw s.sck = .next u ∧ t.sck = u.sck ∧ t.resp = u.resp := by
  cases hd : decode cw with
  | error e =>
    rw [executeWord_of_error hd] at h ⊢
    obtain rfl := Host.Outcome.next.inj h
    rw [wordFault_sck]
    exact ⟨_, rfl, raise_sck _ _ s, by simp⟩
  | ok i =>
    rw [executeWord_of_ok hd, exec_eq_runCommand] at h ⊢
    rw [commandChecks_sck]
    rcases runCommand_cases h with ⟨e, he, rfl⟩ | ⟨hn, rfl⟩
    · exact ⟨_, runCommand_of_fail _ _ he, raise_sck _ _ s, by simp⟩
    · exact ⟨_, runCommand_of_pass _ _ hn, (commandEffect_sck i s).symm, by simp⟩

/-! ## The step -/

theorem step_of_command {s : State} {cw : Word} {rest : List HostEvent} (h : s.host = .command cw :: rest) :
    step s = executeWord cw s := by
  simp [step, serveHost, h]

/-- Settles O9: the step serves the word on the port, and a word that decodes is executed. -/
theorem stepRunsDecodedCommand : Obligations.StepRunsDecodedCommand := by
  intro s cw rest i hhost hdecode
  rw [step_of_command hhost, executeWord_of_ok hdecode]

/-- Settles O11, by the three things a step can do. -/
theorem everyStepAnswers : Obligations.EveryStepAnswers := by
  intro s
  rcases step_cases s with ⟨hhost, hstep⟩ | ⟨rest, hhost, hstep⟩ | ⟨cw, rest, hhost, hstep⟩
  · exact ⟨s, hstep, rfl, fun _ => rfl, fun cw rest h => by simp [hhost] at h⟩
  · exact ⟨_, hstep, rfl, fun h => by simp [hhost] at h, fun cw rest h => by simp [hhost] at h⟩
  · obtain ⟨t, ht, hcfg, htail, hresp⟩ := executeWord_answers cw s
    refine ⟨t, hstep.trans ht, hcfg, fun h => by simp [hhost] at h, fun cw' rest' h => ⟨?_, hresp⟩⟩
    rw [htail, h, List.tail_cons]

/-- Settles O13: executing a word reads and leaves what it would from the state without the port. -/
theorem responseDependsOnlyOnSck : Obligations.ResponseDependsOnlyOnSck := by
  intro s s' t t' cw rest rest' hhost hhost' hsck hstep hstep'
  rw [step_of_command hhost] at hstep
  rw [step_of_command hhost'] at hstep'
  obtain ⟨u, hu, htu, hru⟩ := executeWord_sck hstep
  obtain ⟨u', hu', htu', hru'⟩ := executeWord_sck hstep'
  have huu : u = u' := by
    rw [hsck, hu'] at hu
    exact (Host.Outcome.next.inj hu).symm
  subst huu
  exact ⟨htu.trans htu'.symm, hru.trans hru'.symm⟩

end Sys2Proof.Machine

/-! # Sparse blocks, counters and weights

The transpose of a valid block, the counter of a position counted over the rows of the matrix, and how toggling bits
changes a weight (40_block_algebra.md, 42_counters.md). -/

namespace Sys2Proof.Machine

open Sys2Proof

/-! ## Differences modulo `R` -/

theorem mod_eq_ite {n R : Nat} (h : n < R + R) : n % R = if n < R then n else n - R := by
  split
  · next hlt => exact Nat.mod_eq_of_lt hlt
  · next hge => rw [Nat.mod_eq_sub_mod (by omega), Nat.mod_eq_of_lt (by omega)]

theorem subMod_eq_iff {R a b c : Nat} (ha : a < R) (hb : b < R) (hc : c < R) :
    subMod R a b = c ↔ a = (b + c) % R := by
  rw [subMod, mod_eq_ite (by omega), mod_eq_ite (by omega)]
  split <;> split <;> omega

/-- Subtracting `-p` adds `p`. -/
theorem subMod_subMod_zero {R j p : Nat} (hj : j < R) (hp : p < R) : subMod R j (subMod R 0 p) = (j + p) % R := by
  have hq : subMod R 0 p < R := subMod_lt (by omega) 0 p
  have hsum : 0 = (p + subMod R 0 p) % R := (subMod_eq_iff (by omega) hp hq).mp rfl
  refine (subMod_eq_iff hj hq (Nat.mod_lt _ (by omega))).mpr ?_
  rw [Nat.add_mod_mod, show subMod R 0 p + (j + p) = j + (p + subMod R 0 p) by omega, ← Nat.add_mod_mod, ← hsum,
    Nat.add_zero, Nat.mod_eq_of_lt hj]

theorem subMod_zero_subMod_zero {R p : Nat} (hp : p < R) : subMod R 0 (subMod R 0 p) = p := by
  rw [subMod_subMod_zero (by omega) hp, Nat.zero_add, Nat.mod_eq_of_lt hp]

/-- Adding a fixed offset modulo `R` is one-to-one on positions. -/
theorem add_mod_inj {R j c d : Nat} (hj : j < R) (hc : c < R) (hd : d < R) (h : (j + c) % R = (j + d) % R) : c = d := by
  rw [mod_eq_ite (by omega), mod_eq_ite (by omega)] at h
  split at h <;> split at h <;> omega

/-! ## The transpose of a valid block (R91) -/

theorem transpose_cons (R p : Nat) (ps : List Nat) :
    transpose R (p :: ps) = if p = 0 then 0 :: ps.reverse.map (R - ·) else (p :: ps).reverse.map (R - ·) := rfl

theorem map_sub_eq_map_subMod_zero {R : Nat} {Q : List Nat} (hQ : ∀ q ∈ Q, 0 < q ∧ q < R) :
    Q.map (R - ·) = Q.map (subMod R 0) := by
  refine List.map_congr_left fun q hq => ?_
  obtain ⟨h0, hR⟩ := hQ q hq
  rw [subMod, Nat.zero_add, Nat.mod_eq_of_lt (by omega)]

/-- Negating an increasing list and reading it backwards gives an increasing list. -/
theorem pairwise_reverse_map_sub {R : Nat} {Q : List Nat} (hQ : Q.Pairwise (· < ·)) (hlt : ∀ q ∈ Q, q < R) :
    (Q.reverse.map (R - ·)).Pairwise (· < ·) := by
  rw [List.pairwise_map, List.pairwise_reverse]
  exact hQ.imp_of_mem fun ha hb hab => by have := hlt _ ha; have := hlt _ hb; omega

/-- The transpose lists the negated positions. -/
theorem transpose_perm {R : Nat} {P : List Nat} (h : validSparse R P = true) :
    (transpose R P).Perm (P.map (subMod R 0)) := by
  obtain ⟨hinc, hlt⟩ := (validSparse_iff R P).mp h
  cases P with
  | nil => exact .nil
  | cons p ps =>
    obtain ⟨hp, -⟩ := List.pairwise_cons.mp hinc
    have hps : ∀ q ∈ ps, 0 < q ∧ q < R := fun q hq => ⟨by have := hp q hq; omega, hlt q (by simp [hq])⟩
    rw [transpose_cons]
    split
    · next h0 =>
      have hzero : subMod R 0 p = 0 := by simp [subMod, h0]
      rw [List.map_cons, hzero, map_sub_eq_map_subMod_zero fun q hq => hps q (by simpa using hq)]
      exact .cons 0 ((List.reverse_perm ps).map _)
    · next h0 =>
      rw [map_sub_eq_map_subMod_zero]
      · exact (List.reverse_perm (p :: ps)).map _
      · intro q hq
        rcases List.mem_cons.mp (List.mem_reverse.mp hq) with rfl | hq
        · exact ⟨by omega, hlt q (by simp)⟩
        · exact hps q hq

theorem mem_transpose {R : Nat} {P : List Nat} (h : validSparse R P = true) (a : Nat) :
    a ∈ transpose R P ↔ ∃ p ∈ P, subMod R 0 p = a := by
  rw [(transpose_perm h).mem_iff, List.mem_map]

/-- The transpose of a valid block is valid. -/
theorem validSparse_transpose {R : Nat} {P : List Nat} (h : validSparse R P = true) :
    validSparse R (transpose R P) = true := by
  obtain ⟨hinc, hlt⟩ := (validSparse_iff R P).mp h
  refine (validSparse_iff R _).mpr ⟨?_, fun a ha => ?_⟩
  · cases P with
    | nil => exact .nil
    | cons p ps =>
      obtain ⟨-, hps⟩ := List.pairwise_cons.mp hinc
      have hpsR : ∀ q ∈ ps, q < R := fun q hq => hlt q (by simp [hq])
      rw [transpose_cons]
      split
      · refine List.pairwise_cons.mpr ⟨fun a ha => ?_, pairwise_reverse_map_sub hps hpsR⟩
        obtain ⟨q, hq, rfl⟩ := List.mem_map.mp ha
        have := hpsR q (by simpa using hq)
        omega
      · exact pairwise_reverse_map_sub hinc hlt
  · obtain ⟨p, hp, rfl⟩ := (mem_transpose h a).mp ha
    exact subMod_lt (by have := hlt p hp; omega) 0 p

/-- Transposing a valid block twice gives it back: both are increasing and have the same positions. -/
theorem transpose_transpose {R : Nat} {P : List Nat} (h : validSparse R P = true) :
    transpose R (transpose R P) = P := by
  have ht := validSparse_transpose h
  obtain ⟨hinc, hlt⟩ := (validSparse_iff R P).mp h
  obtain ⟨htinc, -⟩ := (validSparse_iff R _).mp (validSparse_transpose ht)
  refine htinc.eq_of_mem_iff hinc fun a => ?_
  rw [mem_transpose ht]
  constructor
  · rintro ⟨b, hb, rfl⟩
    obtain ⟨p, hp, rfl⟩ := (mem_transpose h b).mp hb
    rwa [subMod_zero_subMod_zero (hlt p hp)]
  · intro ha
    exact ⟨subMod R 0 a, (mem_transpose h _).mpr ⟨a, ha, rfl⟩, subMod_zero_subMod_zero (hlt a ha)⟩

/-! ## Counters (00_scope.md R17, R94, R130) -/

theorem sum_map_toNat {α : Type} (f : α → Bool) (xs : List α) : (xs.map fun x => (f x).toNat).sum = xs.countP f := by
  induction xs with
  | nil => rfl
  | cons x xs ih => cases hx : f x <;> simp [ih, hx, Nat.add_comm]

/-- An integer product counts the ones of its dense operand on the shifted list. -/
theorem muladd_eq_countP (R : Nat) (X : List Nat) (Y : Nat → Bool) (j : Nat) :
    muladd R X Y j = (columnPattern R X j).countP Y := by
  rw [columnPattern, List.countP_map]
  exact sum_map_toNat (Y ∘ fun c => (j + c) % R) X

theorem muladd_le_length (R : Nat) (X : List Nat) (Y : Nat → Bool) (j : Nat) : muladd R X Y j ≤ X.length := by
  simpa [muladd_eq_countP] using List.countP_le_length (p := Y) (l := columnPattern R X j)

theorem columnPattern_nodup {R : Nat} {P : List Nat} (h : validSparse R P = true) {j : Nat} (hj : j < R) :
    (columnPattern R P j).Nodup := by
  obtain ⟨-, hlt⟩ := (validSparse_iff R P).mp h
  exact (validSparse_nodup h).map_on fun c hc d hd heq => add_mod_inj hj (hlt c hc) (hlt d hd) heq

/-- Row `a` of the matrix touches position `j` exactly when `a` stands in the pattern of column `j`. -/
theorem Hbit_eq_mem_columnPattern {R : Nat} {P : List Nat} (h : validSparse R P = true) {a j : Nat} (ha : a < R)
    (hj : j < R) : Hbit R P a j = decide (a ∈ columnPattern R P j) := by
  obtain ⟨-, hlt⟩ := (validSparse_iff R P).mp h
  rw [Bool.eq_iff_iff]
  simp only [Hbit, columnPattern, List.contains_iff_mem, decide_eq_true_eq, List.mem_map]
  constructor
  · intro hmem
    exact ⟨_, hmem, ((subMod_eq_iff ha hj (hlt _ hmem)).mp rfl).symm⟩
  · rintro ⟨c, hc, hac⟩
    rwa [(subMod_eq_iff ha hj (hlt c hc)).mpr hac.symm]

/-- Counting over all positions those on a list without repetitions is counting on the list. -/
theorem countP_range_mem {R : Nat} {L : List Nat} (hL : L.Nodup) (hlt : ∀ i ∈ L, i < R) (V : Nat → Bool) :
    (List.range R).countP (fun a => decide (a ∈ L) && V a) = L.countP V := by
  have hperm : ((List.range R).filter fun a => decide (a ∈ L)).Perm L :=
    (List.perm_ext_iff_of_nodup (List.nodup_range.filter _) hL).mpr fun a => by
      simpa using fun ha => hlt a ha
  rw [← hperm.countP_eq, List.countP_filter]
  exact List.countP_congr fun a _ => by rw [Bool.and_comm]

/-- The counter over the rows of the matrix is the sum over the column list. -/
theorem counterOf_eq_muladd {R : Nat} {P : List Nat} (h : validSparse R P = true) (V : Nat → Bool) {j : Nat}
    (hj : j < R) : counterOf R P j V = muladd R P V j := by
  rw [muladd_eq_countP, ← countP_range_mem (columnPattern_nodup h hj) (columnPattern_lt (by omega) P j)]
  exact List.countP_congr fun a ha => by rw [Hbit_eq_mem_columnPattern h (List.mem_range.mp ha) hj]

/-- The sum over the column list is the scattered sum over the row list. -/
theorem muladdScatter_transpose {R : Nat} {P : List Nat} (h : validSparse R P = true) (V : Nat → Bool) {j : Nat}
    (hj : j < R) : muladdScatter R (transpose R P) V j = muladd R P V j := by
  obtain ⟨-, hlt⟩ := (validSparse_iff R P).mp h
  unfold muladdScatter muladd window
  rw [((transpose_perm h).map _).sum_eq, List.map_map]
  exact congrArg List.sum (List.map_congr_left fun p hp => by
    rw [Function.comp_apply, subMod_subMod_zero hj (hlt p hp)])

/-- A cyclic shift keeps the weight. -/
theorem popcount_shift (R : Nat) (V : Nat → Bool) (p : Nat) : popcount R (fun j => V ((j + p) % R)) = popcount R V := by
  rcases Nat.eq_zero_or_pos R with rfl | hR
  · rfl
  have hnodup : ((List.range R).map fun j => (j + p) % R).Nodup :=
    List.nodup_range.map_on fun c hc d hd heq => by
      rw [← Nat.add_mod_mod c, ← Nat.add_mod_mod d, Nat.add_comm c, Nat.add_comm d] at heq
      exact add_mod_inj (Nat.mod_lt p hR) (List.mem_range.mp hc) (List.mem_range.mp hd) heq
  have hsub : ((List.range R).map fun j => (j + p) % R) ⊆ List.range R := by
    intro a ha
    obtain ⟨j, -, rfl⟩ := List.mem_map.mp ha
    exact List.mem_range.mpr (Nat.mod_lt _ hR)
  have hperm := (hnodup.subperm hsub).perm_of_length_le (by simp)
  exact List.countP_map.symm.trans (hperm.countP_eq V)

/-- Summed over all positions, every entry of the list contributes the whole weight. -/
theorem sum_muladd (R : Nat) (P : List Nat) (V : Nat → Bool) :
    ((List.range R).map fun j => muladd R P V j).sum = P.length * popcount R V := by
  induction P with
  | nil => simp [muladd]
  | cons p P ih =>
    have hcons : ∀ j, muladd R (p :: P) V j = (V ((j + p) % R)).toNat + muladd R P V j := fun j => rfl
    have hshift : ((List.range R).map fun j => (V ((j + p) % R)).toNat).sum = popcount R V :=
      (sum_map_toNat _ _).trans (popcount_shift R V p)
    simp only [hcons, List.sum_map_add, hshift, ih, List.length_cons]
    ring

/-- Settles O54, from the forms of a counter over the column list. -/
theorem counterClosedForms : Obligations.CounterClosedForms := by
  intro R P V h
  refine ⟨fun j hj => ?_, ?_⟩
  · have hcount := counterOf_eq_muladd h V hj
    exact ⟨hcount, hcount.trans (muladdScatter_transpose h V hj).symm, hcount ▸ muladd_le_length R P V j⟩
  · rw [List.map_congr_left fun j hj => counterOf_eq_muladd h V (List.mem_range.mp hj), sum_muladd]

/-! ## Weights after toggling bits (R111, R125, R130) -/

theorem popcount_succ (R : Nat) (V : Nat → Bool) : popcount (R + 1) V = popcount R V + (V R).toNat := by
  cases h : V R <;> simp [popcount, List.range_succ, h]

/-- Toggling one bit changes the weight by one. -/
theorem popcount_toggle {R j : Nat} (hj : j < R) (V : Nat → Bool) :
    popcount R (fun a => Bool.xor (V a) (decide (a = j))) + 2 * (V j).toNat = popcount R V + 1 := by
  induction R with
  | zero => omega
  | succ R ih =>
    rw [popcount_succ, popcount_succ]
    rcases Nat.lt_succ_iff_lt_or_eq.mp hj with hlt | rfl
    · have hlast : decide (R = j) = false := decide_eq_false (by omega)
      rw [hlast, Bool.xor_false]
      have := ih hlt
      omega
    · have hrest : popcount j (fun a => Bool.xor (V a) (decide (a = j))) = popcount j V :=
        popcount_congr fun a ha => by rw [decide_eq_false (by omega), Bool.xor_false]
      rw [hrest]
      cases V j <;> simp

/-- Toggling the bits of a list without repetitions: each that was 1 takes one from the weight, each other adds one. -/
theorem popcount_toggleList {R : Nat} {is : List Nat} (hnodup : is.Nodup) (hlt : ∀ i ∈ is, i < R) (V : Nat → Bool) :
    popcount R (fun a => Bool.xor (V a) (xorAll (is.map fun i => decide (a = i)))) + 2 * is.countP V =
      popcount R V + is.length := by
  induction is generalizing V with
  | nil => simp
  | cons i is ih =>
    obtain ⟨hi, his⟩ := List.nodup_cons.mp hnodup
    have htail := ih his (fun a ha => hlt a (by simp [ha])) fun a => Bool.xor (V a) (decide (a = i))
    have hhead := popcount_toggle (hlt i (by simp)) V
    have hsame : is.countP (fun a => Bool.xor (V a) (decide (a = i))) = is.countP V :=
      List.countP_congr fun a ha => by
        rw [decide_eq_false (show ¬ a = i from fun h => hi (h ▸ ha)), Bool.xor_false]
    have hcons : (i :: is).countP V = is.countP V + (V i).toNat := by cases h : V i <;> simp [h]
    simp only [List.map_cons, xorAll_cons, ← Bool.xor_assoc, List.length_cons, hcons]
    rw [hsame] at htail
    omega

end Sys2Proof.Machine

/-! # The invariant (10_state.md section 6)

Each named operation on the state keeps the invariant, under the conditions its users check; then so does every
command, and every step. -/

namespace Sys2Proof.Machine

open Sys2Proof

/-! ## Naturals in 24 bits -/

theorem toNat_num {n : Nat} (h : n < 2 ^ 24) : (num n).toNat = n := by
  rw [num, BitVec.toNat_ofNat, Nat.mod_eq_of_lt h]

/-- Under legal parameters every position count fits 24 bits (00_scope.md R12). -/
theorem legal_N_lt {p : Config.Params} (h : p.legal) : 2 * p.R < 2 ^ 24 := by
  obtain ⟨-, -, -, hR, -⟩ := h
  omega

theorem params_N_eq (p : Config.Params) : p.N = 2 * p.R := rfl

/-- A weight register adjusted by one holds the weight after the toggle. -/
theorem toNat_adjusted {w : Reg24} {b : Bool} {n : Nat} (hn : n < 2 ^ 24) (h : n + 2 * b.toNat = w.toNat + 1) :
    (if b then w - 1 else w + 1).toNat = n := by
  cases b with
  | false =>
    have hup : n = w.toNat + 1 := by simpa using h
    change (w + 1).toNat = n
    bv_omega
  | true =>
    have hdown : n + 1 = w.toNat := by simpa using h
    change (w - 1).toNat = n
    bv_omega

/-! ## What the parts of the invariant depend on -/

theorem State.MatrixOk.congr {s t : State} {k : Block} (h : s.MatrixOk k) (hR : t.cfg.R = s.cfg.R)
    (hcol : t.sparse .columns k = s.sparse .columns k) (hrow : t.sparse .rows k = s.sparse .rows k) : t.MatrixOk k := by
  constructor
  · rw [hR, hcol]; exact h.columns
  · rw [hR, hrow]; exact h.rows
  · rw [hR, hcol, hrow]; exact h.dual

theorem State.ListOk.congr {s t : State} {L : ListId} (h : s.ListOk L) (hcfg : t.cfg = s.cfg)
    (hllen : t.llen.get L = s.llen.get L) (hlist : t.list.get L = s.list.get L) (hctv : s.ctv = true → t.ctv = true) :
    t.ListOk L := by
  have hentries : t.entries L = s.entries L := State.entries_congr hllen hlist
  constructor
  · rw [hllen, hcfg]; exact h.length
  · rw [hentries, hcfg]; exact h.inRange
  · rw [hentries]; exact h.distinct
  · exact hctv h.snapshot

/-- The invariant is about the SCK's own state alone. -/
theorem State.Inv.of_sck {s t : State} (h : s.Inv) (hsck : t.sck = s.sck) : t.Inv := by
  have ht : t = { s with host := t.host, resp := t.resp } := by
    cases t; cases s
    simpa [State.sck] using hsck
  rw [ht]
  exact { h with
    memories := { h.memories with }
    matrix := fun k hk => (h.matrix k hk).congr rfl rfl rfl
    lists := fun L hL => (h.lists L hL).congr rfl rfl rfl id }

/-! ## Reset and fault entry -/

theorem resetOf_sparse (p : Config.Params) (sel : Side) (k : Block) (l : Nat) :
    ((State.resetOf p).sideMemory sel k).read l = 0 := by
  cases sel <;> cases k <;> rfl

theorem resetOf_inv {p : Config.Params} (h : p.legal) : (State.resetOf p).Inv where
  parameters := h
  memories :=
    { col := fun k => by cases k <;> rfl
      row := fun k => by cases k <;> rfl
      err := fun k => by cases k <;> rfl
      syn := rfl
      ctr := fun k => by cases k <;> rfl
      list := fun L => by cases L <;> rfl }
  positions sel k l _ := by
    rw [resetOf_sparse]
    obtain ⟨-, -, hR, -⟩ := h
    exact Nat.lt_of_lt_of_le (by decide) hR
  matrix k hk := by cases k <;> cases hk
  errorWeight h := by cases h
  syndromeWeight h := by cases h
  counters h := by cases h
  lists L hL := by cases L <;> cases hL
  unfaulted _ := ⟨rfl, rfl⟩
  faulted h := by cases h

theorem code_le_of_ne_faulted {e : FaultCode} (h : e ≠ .faulted) : 0x01 ≤ e.code.toNat ∧ e.code.toNat ≤ 0x0C := by
  cases e
  case faulted => exact absurd rfl h
  all_goals decide

/-- Fault entry: only the refusal of the fault state carries a code beyond the recorded ones (R180, R185). -/
theorem raise_inv {s : State} (h : s.Inv) {e : FaultCode} (he : e = .faulted → s.fault = true) (cw : Word) :
    (raise e cw s).Inv := by
  refine State.Inv.of_sck (s := enterFault e cw s) ?_ rfl
  cases hf : s.fault with
  | true => simpa [enterFault, hf] using h
  | false =>
    simp only [enterFault, hf, Bool.false_eq_true, if_false]
    exact { h with
      memories := { h.memories with }
      matrix := fun k hk => (h.matrix k hk).congr rfl rfl rfl
      lists := fun L hL => (h.lists L hL).congr rfl rfl rfl id
      unfaulted := fun hn => by cases hn
      faulted := fun _ => code_le_of_ne_faulted fun h' => by simp [he h'] at hf }

/-! ## Validity flags -/

theorem clearSnapshot_inv {s : State} (h : s.Inv) : (clearSnapshot s).Inv :=
  { h with
    memories := { h.memories with }
    matrix := fun k hk => (h.matrix k hk).congr rfl rfl rfl
    counters := fun hc => by cases hc
    lists := fun L hL => by cases L <;> cases hL }

theorem invalidateDerived_inv {s : State} (h : s.Inv) : (invalidateDerived s).Inv :=
  have h' := clearSnapshot_inv h
  { h' with
    memories := { h'.memories with }
    matrix := fun k hk => (h'.matrix k hk).congr rfl rfl rfl
    syndromeWeight := fun hv => by cases hv
    counters := fun hc => by cases hc
    lists := fun L hL => by cases L <;> cases hL }

theorem setErrorValid_inv {s : State} (h : s.Inv)
    (hw : s.ew.toNat = popcount s.cfg.R (s.errBit .b0) + popcount s.cfg.R (s.errBit .b1)) : (setErrorValid s).Inv :=
  { h with
    memories := { h.memories with }
    matrix := fun k hk => (h.matrix k hk).congr rfl rfl rfl
    errorWeight := fun _ => hw
    lists := fun L hL => (h.lists L hL).congr rfl rfl rfl id }

theorem setSyndromeValid_inv {s : State} (h : s.Inv) (hw : s.sw.toNat = popcount s.cfg.R s.synBit) :
    (setSyndromeValid s).Inv :=
  { h with
    memories := { h.memories with }
    matrix := fun k hk => (h.matrix k hk).congr rfl rfl rfl
    syndromeWeight := fun _ => hw
    counters := fun hc => by
      obtain ⟨hle, h0, h1, -⟩ := h.counters hc
      exact ⟨hle, h0, h1, rfl⟩
    lists := fun L hL => (h.lists L hL).congr rfl rfl rfl id }

theorem setCountersValid_inv {s : State} (h : s.Inv) (hle : ∀ k j, j < s.cfg.R → s.counter k j ≤ s.cfg.W)
    (h0 : s.mv.get .b0 = true) (h1 : s.mv.get .b1 = true) (hsv : s.sv = true) : (setCountersValid s).Inv :=
  { h with
    memories := { h.memories with }
    matrix := fun k hk => (h.matrix k hk).congr rfl rfl rfl
    counters := fun _ => ⟨hle, h0, h1, hsv⟩
    lists := fun L hL => (h.lists L hL).congr rfl rfl rfl fun _ => rfl }

/-- Clearing `MV[k]` keeps the invariant when the counters are not valid, as they rest on both matrices. -/
theorem setMatrixValid_false_inv {s : State} (h : s.Inv) (k : Block) (hctv : s.ctv = false) :
    (setMatrixValid k false s).Inv :=
  { h with
    memories := { h.memories with }
    matrix := fun k' hk' => by
      rw [setMatrixValid_mv, Blocks.get_set] at hk'
      split at hk'
      · cases hk'
      · exact (h.matrix k' hk').congr rfl rfl rfl
    counters := fun hc => by simp [hctv] at hc
    lists := fun L hL => (h.lists L hL).congr rfl rfl rfl id }

theorem setMatrixValid_true_inv {s : State} (h : s.Inv) {k : Block} (hk : s.MatrixOk k) :
    (setMatrixValid k true s).Inv :=
  have hmono : ∀ k', s.mv.get k' = true → (s.mv.set k true).get k' = true := fun k' hk' => by
    rw [Blocks.get_set, hk', ite_self]
  { h with
    memories := { h.memories with }
    matrix := fun k' hk' => by
      rw [setMatrixValid_mv, Blocks.get_set] at hk'
      split at hk'
      · next heq => exact (heq ▸ hk).congr rfl rfl rfl
      · exact (h.matrix k' hk').congr rfl rfl rfl
    counters := fun hc => by
      obtain ⟨hle, h0, h1, hsv⟩ := h.counters hc
      exact ⟨hle, hmono _ h0, hmono _ h1, hsv⟩
    lists := fun L hL => (h.lists L hL).congr rfl rfl rfl id }

/-! ## The matrix -/

theorem setSide_sideMemory (sel : Side) (k : Block) (m : Memory Reg24) (s : State) (sel' : Side) (k' : Block) :
    (setSide sel k m s).sideMemory sel' k' = if sel' = sel ∧ k' = k then m else s.sideMemory sel' k' := by
  cases sel <;> cases sel' <;> simp [State.sideMemory, Blocks.get_set]

theorem setSide_sparse_other (sel : Side) {k k' : Block} (m : Memory Reg24) (s : State) (h : k' ≠ k) (sel' : Side) :
    (setSide sel k m s).sparse sel' k' = s.sparse sel' k' := by
  simp [State.sparse, setSide_sideMemory, h]

theorem State.MemoriesWf.setSide {s : State} (h : s.MemoriesWf) (sel : Side) (k : Block) {m : Memory Reg24}
    (hm : m.wf s.cfg.W = true) : (setSide sel k m s).MemoriesWf := by
  have hset : ∀ p : Blocks (Memory Reg24), (∀ k', (p.get k').wf s.cfg.W = true) →
      ∀ k', ((p.set k m).get k').wf s.cfg.W = true := fun p hp k' => by
    rw [Blocks.get_set]
    split
    · exact hm
    · exact hp k'
  cases sel with
  | columns => exact { h with col := hset _ h.col }
  | rows => exact { h with row := hset _ h.row }

/-- Replacing a sparse memory by a canonical one with positions in range. -/
theorem setSide_inv {s : State} (h : s.Inv) (sel : Side) (k : Block) {m : Memory Reg24} (hm : m.wf s.cfg.W = true)
    (hpos : ∀ l, l < s.cfg.W → (m.read l).toNat < s.cfg.R)
    (hk : s.mv.get k = true → (setSide sel k m s).MatrixOk k) : (setSide sel k m s).Inv where
  parameters := by simpa using h.parameters
  memories := h.memories.setSide sel k hm
  positions sel' k' l hl := by
    rw [setSide_cfg] at hl ⊢
    rw [setSide_sideMemory]
    split
    · exact hpos l hl
    · exact h.positions sel' k' l hl
  matrix k' hk' := by
    rw [setSide_mv] at hk'
    by_cases heq : k' = k
    · exact heq ▸ hk (heq ▸ hk')
    · exact (h.matrix k' hk').congr (by simp) (setSide_sparse_other _ _ _ heq _) (setSide_sparse_other _ _ _ heq _)
  errorWeight := by cases sel <;> exact h.errorWeight
  syndromeWeight := by cases sel <;> exact h.syndromeWeight
  counters := by cases sel <;> exact h.counters
  lists L hL := by
    rw [setSide_lv] at hL
    exact (h.lists L hL).congr (by simp) (by simp) (by simp) (by simp)
  unfaulted := by simpa using h.unfaulted
  faulted := by simpa using h.faulted

/-! ## The error vector, the syndrome and their weights -/

theorem clearError_errBit (k : Block) (s : State) : (clearError s).errBit k = fun _ => false := by
  cases k <;> rfl

theorem clearError_weight (s : State) :
    (clearError s).ew.toNat =
      popcount s.cfg.R ((clearError s).errBit .b0) + popcount s.cfg.R ((clearError s).errBit .b1) := by
  simp [clearError_errBit]

theorem clearError_inv {s : State} (h : s.Inv) : (clearError s).Inv :=
  { h with
    memories := { h.memories with err := fun k => by cases k <;> rfl }
    matrix := fun k hk => (h.matrix k hk).congr rfl rfl rfl
    errorWeight := fun _ => clearError_weight s
    lists := fun L hL => (h.lists L hL).congr rfl rfl rfl id }

/-- Toggling an error bit changes the weight of the whole error vector by one. -/
theorem toggleError_popcount {s : State} {k : Block} {j : Nat} (hwf : (s.err.get k).wf s.cfg.R = true)
    (hj : j < s.cfg.R) :
    popcount s.cfg.R ((toggleError k j s).errBit .b0) + popcount s.cfg.R ((toggleError k j s).errBit .b1) +
        2 * (s.errBit k j).toNat =
      popcount s.cfg.R (s.errBit .b0) + popcount s.cfg.R (s.errBit .b1) + 1 := by
  have hsame : (toggleError k j s).errBit k = fun a => Bool.xor (s.errBit k a) (decide (a = j)) :=
    funext fun a => by simp [toggleError_errBit hwf]
  have hother : ∀ k', k' ≠ k → (toggleError k j s).errBit k' = s.errBit k' := fun k' hne =>
    funext fun a => by simp [toggleError_errBit hwf, hne]
  have htoggle := popcount_toggle hj (s.errBit k)
  cases k with
  | b0 => rw [hsame, hother .b1 (by decide)]; omega
  | b1 => rw [hsame, hother .b0 (by decide)]; omega

theorem toggleError_inv {s : State} (h : s.Inv) (k : Block) {j : Nat} (hj : j < s.cfg.R) : (toggleError k j s).Inv :=
  { h with
    memories := { h.memories with
      err := fun k' => by
        rw [toggleError_err, Blocks.get_set]
        split
        · exact Memory.wf_toggle (h.memories.err k) hj
        · exact h.memories.err k' }
    matrix := fun k' hk => (h.matrix k' hk).congr rfl rfl rfl
    errorWeight := fun hev => by
      have hN := legal_N_lt h.parameters
      have h0 := popcount_le s.cfg.R ((toggleError k j s).errBit .b0)
      have h1 := popcount_le s.cfg.R ((toggleError k j s).errBit .b1)
      have hcount := toggleError_popcount (h.memories.err k) hj
      rw [toggleError_ew, toggleError_cfg]
      exact toNat_adjusted (by omega) (by rw [hcount, h.errorWeight hev])
    lists := fun L hL => (h.lists L hL).congr rfl rfl rfl id }

theorem clearSyndrome_weight (s : State) :
    (clearSyndrome s).sw.toNat = popcount s.cfg.R (clearSyndrome s).synBit :=
  (popcount_zero s.cfg.R).symm

theorem clearSyndrome_inv {s : State} (h : s.Inv) : (clearSyndrome s).Inv :=
  { h with
    memories := { h.memories with syn := rfl }
    matrix := fun k hk => (h.matrix k hk).congr rfl rfl rfl
    syndromeWeight := fun _ => clearSyndrome_weight s
    lists := fun L hL => (h.lists L hL).congr rfl rfl rfl id }

theorem loadSyndrome_weight {s : State} (h : s.cfg.legal) (V : Nat → Bool) :
    (loadSyndrome V s).sw.toNat = popcount s.cfg.R (loadSyndrome V s).synBit := by
  have hN := legal_N_lt h
  have hle := popcount_le s.cfg.R V
  rw [loadSyndrome_sw, toNat_num (by omega)]
  exact popcount_congr fun j hj => by rw [loadSyndrome_synBit, if_pos hj]

theorem loadSyndrome_inv {s : State} (h : s.Inv) (V : Nat → Bool) : (loadSyndrome V s).Inv :=
  { h with
    memories := { h.memories with syn := Memory.wf_ofFn _ _ }
    matrix := fun k hk => (h.matrix k hk).congr rfl rfl rfl
    syndromeWeight := fun _ => loadSyndrome_weight h.parameters V
    lists := fun L hL => (h.lists L hL).congr rfl rfl rfl id }

theorem toggleSyndrome_inv {s : State} (h : s.Inv) {j : Nat} (hj : j < s.cfg.R) : (toggleSyndrome j s).Inv :=
  { h with
    memories := { h.memories with syn := Memory.wf_toggle h.memories.syn hj }
    matrix := fun k hk => (h.matrix k hk).congr rfl rfl rfl
    syndromeWeight := fun hsv => by
      have hN := legal_N_lt h.parameters
      have hle := popcount_le s.cfg.R (toggleSyndrome j s).synBit
      have hbits : (toggleSyndrome j s).synBit = fun a => Bool.xor (s.synBit a) (decide (a = j)) :=
        funext (toggleSyndrome_synBit h.memories.syn j)
      rw [toggleSyndrome_sw, toggleSyndrome_cfg]
      exact toNat_adjusted (by omega) (by rw [hbits, popcount_toggle hj, h.syndromeWeight hsv])
    lists := fun L hL => (h.lists L hL).congr rfl rfl rfl id }

/-! ## The flip (41_error_syndrome.md R130) -/

/-- XORing a column of a valid block into the syndrome changes its weight by `W - 2c`. -/
theorem flipSyndrome_popcount {s : State} {k : Block} {j : Nat} (hsyn : s.syn.wf s.cfg.R = true)
    (hk : validSparse s.cfg.R (s.sparse .columns k) = true) (hj : j < s.cfg.R) :
    popcount s.cfg.R (flipSyndrome k j s).synBit + 2 * exactCounter k j s =
      popcount s.cfg.R s.synBit + s.cfg.W := by
  have hR : 0 < s.cfg.R := by omega
  have hbits : (flipSyndrome k j s).synBit = fun a => Bool.xor (s.synBit a)
      (xorAll ((columnPattern s.cfg.R (s.sparse .columns k) j).map fun i => decide (a = i))) :=
    funext (flip_synBit hR hsyn k j)
  rw [hbits, exactCounter, muladd_eq_countP,
    popcount_toggleList (columnPattern_nodup hk hj) (columnPattern_lt hR _ j), columnPattern_length,
    State.sparse_length]

theorem flipSyndrome_inv {s : State} (h : s.Inv) {k : Block} {j : Nat} (hk : s.mv.get k = true) (hj : j < s.cfg.R) :
    (flipSyndrome k j s).Inv :=
  { h with
    memories := { h.memories with
      syn := Memory.wf_toggleAll h.memories.syn _ (columnPattern_lt (by omega) _ j) }
    matrix := fun k' hk' => (h.matrix k' hk').congr rfl rfl rfl
    syndromeWeight := fun hsv => by
      have hN := legal_N_lt h.parameters
      have hle := popcount_le s.cfg.R (flipSyndrome k j s).synBit
      have hcount := flipSyndrome_popcount h.memories.syn (h.matrix k hk).columns hj
      have hsw := h.syndromeWeight hsv
      have hsum : (s.sw.toNat : Int) + s.cfg.W - 2 * exactCounter k j s =
          (popcount s.cfg.R (flipSyndrome k j s).synBit : Nat) := by omega
      rw [flipSyndrome_sw, hsum, BitVec.ofInt_natCast]
      exact toNat_num (by omega)
    lists := fun L hL => (h.lists L hL).congr rfl rfl rfl id }

theorem flip_inv {s : State} (h : s.Inv) {k : Block} {j : Nat} (hk : s.mv.get k = true) (hj : j < s.cfg.R) :
    (flip k j s).Inv :=
  flipSyndrome_inv (toggleError_inv h k hj) hk hj

theorem flipEntries_inv {s : State} (h : s.Inv) (es : List Entry) (hmv : ∀ k, s.mv.get k = true)
    (hes : ∀ e ∈ es, e.j.toNat < s.cfg.R) : (flipEntries es s).Inv := by
  induction es generalizing s with
  | nil => exact h
  | cons e es ih =>
    exact ih (flip_inv h (hmv e.k) (hes e (by simp))) hmv fun f hf => hes f (by simp [hf])

/-! ## The counters (42_counters.md) -/

theorem exactCounter_le (k : Block) (j : Nat) (s : State) : exactCounter k j s ≤ s.cfg.W := by
  simpa [exactCounter] using muladd_le_length s.cfg.R (s.sparse .columns k) s.synBit j

theorem rebuildCounters_get (k : Block) (s : State) : (rebuildCounters s).ctr.get k = counterMemory k s := by
  cases k <;> rfl

theorem rebuildCounters_counter (k : Block) {j : Nat} {s : State} (hj : j < s.cfg.R) :
    (rebuildCounters s).counter k j = exactCounter k j s := by
  rw [State.counter, rebuildCounters_get, counterMemory, Memory.read_ofFn, if_pos hj]

theorem rebuildCounters_counter_le (s : State) (k : Block) (j : Nat) (hj : j < s.cfg.R) :
    (rebuildCounters s).counter k j ≤ s.cfg.W :=
  rebuildCounters_counter k hj ▸ exactCounter_le k j s

theorem rebuildCounters_inv {s : State} (h : s.Inv) : (rebuildCounters s).Inv :=
  { h with
    memories := { h.memories with
      ctr := fun k => by
        rw [rebuildCounters_get]
        exact Memory.wf_ofFn _ _ }
    matrix := fun k hk => (h.matrix k hk).congr rfl rfl rfl
    counters := fun hc => ⟨rebuildCounters_counter_le s, (h.counters hc).2⟩
    lists := fun L hL => (h.lists L hL).congr rfl rfl rfl id }

/-! ## Selections (43_ranking.md) -/

/-- What a list may hold under valid counters: no more entries than there are positions, each in range, no position
twice (10_state.md R29, R35). -/
structure State.Selection (s : State) (es : List Entry) : Prop where
  length : es.length ≤ s.cfg.N
  inRange : ∀ e ∈ es, e.j.toNat < s.cfg.R ∧ e.c ≤ s.cfg.W
  distinct : (es.map fun e => (e.k, e.j)).Nodup

/-- Part of a selection, in any order, is a selection. -/
theorem State.Selection.subperm {s : State} {es fs : List Entry} (h : s.Selection es) (hsub : fs.Subperm es) :
    s.Selection fs := by
  obtain ⟨gs, hperm, hgs⟩ := hsub
  exact {
    length := hperm.length_eq ▸ hgs.length_le.trans h.length
    inRange := fun e he => h.inRange e (hgs.subset (hperm.mem_iff.mpr he))
    distinct := (hperm.map _).nodup_iff.mp (h.distinct.sublist (hgs.map _)) }

theorem scanBlock_keys (k : Block) (s : State) :
    (scanBlock k s).map (fun e => (e.k, e.j)) = (List.range s.cfg.R).map fun j => (k, num j) := by
  simp [scanBlock]

theorem scanBlock_keys_nodup {s : State} (h : s.cfg.legal) (k : Block) :
    ((scanBlock k s).map fun e => (e.k, e.j)).Nodup := by
  have hN := legal_N_lt h
  rw [scanBlock_keys]
  refine List.nodup_range.map_on fun i hi j hj heq => ?_
  have hi := List.mem_range.mp hi
  have hj := List.mem_range.mp hj
  have hnum := congrArg BitVec.toNat (Prod.mk.inj heq).2
  rwa [toNat_num (by omega), toNat_num (by omega)] at hnum

theorem scanBlock_inRange {s : State} (h : s.Inv) (hctv : s.ctv = true) {k : Block} {e : Entry}
    (he : e ∈ scanBlock k s) : e.k = k ∧ e.j.toNat < s.cfg.R ∧ e.c ≤ s.cfg.W := by
  obtain ⟨hle, -⟩ := h.counters hctv
  have hN := legal_N_lt h.parameters
  obtain ⟨j, hj, rfl⟩ := List.mem_map.mp he
  have hj := List.mem_range.mp hj
  exact ⟨rfl, (toNat_num (n := j) (by omega)).symm ▸ hj, hle k j hj⟩

/-- All positions with their counters are a selection. -/
theorem scan_selection {s : State} (h : s.Inv) (hctv : s.ctv = true) : s.Selection (scan s) where
  length := by simp [scan, scanBlock, params_N_eq, Nat.two_mul]
  inRange e he := by
    rcases List.mem_append.mp he with he | he <;> exact (scanBlock_inRange h hctv he).2
  distinct := by
    rw [scan, List.map_append, List.nodup_append]
    refine ⟨scanBlock_keys_nodup h.parameters _, scanBlock_keys_nodup h.parameters _, ?_⟩
    rw [scanBlock_keys, scanBlock_keys]
    rintro p hp q hq rfl
    obtain ⟨i, -, rfl⟩ := List.mem_map.mp hp
    obtain ⟨j, -, hij⟩ := List.mem_map.mp hq
    cases (Prod.mk.inj hij).1

theorem insertRanked_perm (R : Nat) (e : Entry) (es : List Entry) : (insertRanked R e es).Perm (e :: es) := by
  induction es with
  | nil => exact .refl _
  | cons f fs ih =>
    unfold insertRanked
    split
    · exact .refl _
    · exact (ih.cons f).trans (.swap e f fs)

theorem sortRanked_perm (R : Nat) (es : List Entry) : (sortRanked R es).Perm es := by
  induction es with
  | nil => exact .refl _
  | cons e es ih => exact (insertRanked_perm R e _).trans (ih.cons e)

theorem selected_selection {s : State} (h : s.Inv) (hctv : s.ctv = true) (lo hi : Nat) :
    s.Selection (selected lo hi s) :=
  (scan_selection h hctv).subperm List.filter_sublist.subperm

theorem topRanked_selection {s : State} (h : s.Inv) (hctv : s.ctv = true) (K : Nat) : s.Selection (topRanked K s) :=
  (scan_selection h hctv).subperm ((List.take_sublist K _).subperm.trans (sortRanked_perm _ _).subperm)

theorem writeList_listOk {s : State} (h : s.Inv) (hctv : s.ctv = true) (L : ListId) {es : List Entry}
    (hes : s.Selection es) : (writeList L es s).ListOk L := by
  have h24 : es.length < 2 ^ 24 := by
    have := legal_N_lt h.parameters
    have := hes.length
    rw [params_N_eq] at this
    omega
  have hentries : (writeList L es s).entries L = es := writeList_entries (h.memories.list L) hes.length h24
  constructor
  · rw [← State.entries_length, hentries]; exact hes.length
  · rw [hentries]; exact hes.inRange
  · rw [hentries]; exact hes.distinct
  · exact hctv

theorem writeList_inv {s : State} (h : s.Inv) (hctv : s.ctv = true) (L : ListId) {es : List Entry}
    (hes : s.Selection es) : (writeList L es s).Inv :=
  { h with
    memories := { h.memories with
      list := fun L' => by
        rw [writeList_list, Lists.get_set]
        split
        · exact Memory.wf_writeFrom (h.memories.list L) es (by simpa using hes.length)
        · exact h.memories.list L' }
    matrix := fun k hk => (h.matrix k hk).congr rfl rfl rfl
    lists := fun L' hL' => by
      by_cases heq : L' = L
      · exact heq ▸ writeList_listOk h hctv L hes
      · rw [writeList_lv, Lists.get_set_ne _ _ heq] at hL'
        exact (h.lists L' hL').congr rfl (Lists.get_set_ne _ _ heq) (Lists.get_set_ne _ _ heq) id }

/-! ## Every command -/

@[simp] theorem below_holds (x bound : Nat) : (below x bound).1 = decide (x < bound) := rfl
@[simp] theorem needMatrix_holds (k : Block) (s : State) : (needMatrix k s).1 = s.mv.get k := rfl
@[simp] theorem needCounters_holds (s : State) : (needCounters s).1 = s.ctv := rfl
@[simp] theorem needSyndrome_holds (s : State) : (needSyndrome s).1 = s.sv := rfl
@[simp] theorem needList_holds (L : ListId) (s : State) : (needList L s).1 = s.lv.get L := rfl
@[simp] theorem sourceValid_holds (d : Direction) (k : Block) (s : State) :
    (sourceValid d k s).1 = validSparse s.cfg.R (s.sparse (sourceSide d) k) := rfl

/-- Clearing flags and writing a sparse memory may be done in either order. -/
theorem invalidateDerived_setMatrixValid_setSide (sel : Side) (k : Block) (v : Bool) (m : Memory Reg24) (s : State) :
    invalidateDerived (setMatrixValid k v (setSide sel k m s)) =
      setSide sel k m (setMatrixValid k v (invalidateDerived s)) := by
  cases sel <;> rfl

theorem State.MemoriesWf.sideMemory {s : State} (h : s.MemoriesWf) (sel : Side) (k : Block) :
    (s.sideMemory sel k).wf s.cfg.W = true := by
  cases sel with
  | columns => exact h.col k
  | rows => exact h.row k

/-- `WRS`: with the flags cleared first, the write may leave any list (R97). -/
theorem wrs_inv {s : State} (h : s.Inv) (sel : Side) (k : Block) {l p : Nat} (hl : l < s.cfg.W) (hp : p < s.cfg.R) :
    (invalidateDerived (setMatrixValid k false (setSide sel k ((s.sideMemory sel k).write l (num p)) s))).Inv := by
  have hN := legal_N_lt h.parameters
  have hwf := h.memories.sideMemory sel k
  rw [invalidateDerived_setMatrixValid_setSide]
  refine setSide_inv (setMatrixValid_false_inv (invalidateDerived_inv h) k rfl) sel k (Memory.wf_write hwf _ hl)
    (fun l' hl' => ?_) fun hk => by simp at hk
  rw [Memory.read_write hwf]
  split
  · exact (toNat_num (n := p) (by omega)).symm ▸ hp
  · exact h.positions sel k l' hl'

theorem sparseMemory_wf (W : Nat) (P : List Nat) : (sparseMemory W P).wf W = true := Memory.wf_ofFn W _

theorem sparseMemory_read_toNat {R W : Nat} {P : List Nat} (hR : R < 2 ^ 24) (hlen : P.length = W)
    (hlt : ∀ p ∈ P, p < R) {l : Nat} (hl : l < W) :
    ((sparseMemory W P).read l).toNat = P[l] := by
  have hpos := hlt P[l] (List.getElem_mem _)
  rw [sparseMemory, Memory.read_ofFn, if_pos hl, List.getD_eq_getElem _ _ (hlen.symm ▸ hl), toNat_num (by omega)]

/-- After writing the memory made of a list, that side of the block is the list. -/
theorem setSide_sparseMemory_sparse {s : State} (hR : s.cfg.R < 2 ^ 24) (sel : Side) (k : Block) {P : List Nat}
    (hlen : P.length = s.cfg.W) (hlt : ∀ p ∈ P, p < s.cfg.R) :
    (setSide sel k (sparseMemory s.cfg.W P) s).sparse sel k = P := by
  refine List.ext_getElem (by simp [hlen]) fun l h1 h2 => ?_
  simp only [State.sparse, List.getElem_map, List.getElem_range, setSide_sideMemory, and_self, if_true]
  exact sparseMemory_read_toNat hR hlen hlt (hlen ▸ h2)

/-- Writing one side of a block leaves the other. -/
theorem setSide_sparse_otherSide {sel sel' : Side} (hne : sel' ≠ sel) (k k' : Block) (m : Memory Reg24) (s : State) :
    (setSide sel k m s).sparse sel' k' = s.sparse sel' k' := by
  simp [State.sparse, setSide_sideMemory, hne]

/-- Deriving one list from a valid other makes the block a valid matrix, in either direction (R99). -/
theorem setSide_transpose_matrixOk {s : State} (hR : s.cfg.R < 2 ^ 24) (d : Direction) (k : Block)
    (hsrc : validSparse s.cfg.R (s.sparse (sourceSide d) k) = true) :
    (setSide (destinationSide d) k (sparseMemory s.cfg.W (transpose s.cfg.R (s.sparse (sourceSide d) k))) s).MatrixOk
      k := by
  have hvalid := validSparse_transpose hsrc
  have hdst := setSide_sparseMemory_sparse hR (destinationSide d) k (by simp) ((validSparse_iff _ _).mp hvalid).2
  have hkeep := setSide_sparse_otherSide (show sourceSide d ≠ destinationSide d by cases d <;> decide) k k
    (sparseMemory s.cfg.W (transpose s.cfg.R (s.sparse (sourceSide d) k))) s
  cases d with
  | forward =>
    simp only [sourceSide, destinationSide] at hsrc hvalid hdst hkeep ⊢
    constructor
    · rwa [setSide_cfg, hkeep]
    · rwa [setSide_cfg, hdst]
    · rw [setSide_cfg, hdst, hkeep]
  | backward =>
    simp only [sourceSide, destinationSide] at hsrc hvalid hdst hkeep ⊢
    constructor
    · rwa [setSide_cfg, hdst]
    · rwa [setSide_cfg, hkeep]
    · rw [setSide_cfg, hdst, hkeep, transpose_transpose hsrc]

/-- `TRN`: a list derived from a valid one (R99). -/
theorem trn_inv {s : State} (h : s.Inv) (d : Direction) (k : Block)
    (hsrc : validSparse s.cfg.R (s.sparse (sourceSide d) k) = true) :
    (setMatrixValid k true (setSide (destinationSide d) k
      (sparseMemory s.cfg.W (transpose s.cfg.R (s.sparse (sourceSide d) k))) s)).Inv := by
  have hR : s.cfg.R < 2 ^ 24 := by have := legal_N_lt h.parameters; omega
  have hlt := ((validSparse_iff _ _).mp (validSparse_transpose hsrc)).2
  have hok := setSide_transpose_matrixOk hR d k hsrc
  refine setMatrixValid_true_inv (setSide_inv h _ k (sparseMemory_wf _ _) (fun l hl => ?_) fun _ => hok) hok
  rw [sparseMemory_read_toNat hR (by simp) hlt hl]
  exact hlt _ (List.getElem_mem _)

/-- Every command that passes its checks keeps the invariant. -/
theorem commandEffect_inv {s : State} (h : s.Inv) (i : Instr) (hpass : ∀ c ∈ ownChecks i s, c.1 = true) :
    (commandEffect i s).Inv := by
  cases i
  case srst => exact (resetOf_inv h.parameters).of_sck rfl
  case wrs sel k l p =>
    obtain ⟨-, hl, hp⟩ : _ ∧ l < s.cfg.W ∧ p < s.cfg.R := by simpa [ownChecks] using hpass
    exact wrs_inv h sel (blockOf k) hl hp
  case trn d k =>
    obtain ⟨-, hsrc⟩ : _ ∧ validSparse s.cfg.R (s.sparse (sourceSide d) (blockOf k)) = true := by
      simpa [ownChecks] using hpass
    exact trn_inv h d (blockOf k) hsrc
  case eclr => exact invalidateDerived_inv (setErrorValid_inv (clearError_inv h) (clearError_weight s))
  case etog k j =>
    obtain ⟨-, hj, -⟩ : _ ∧ j < s.cfg.R ∧ _ := by simpa [ownChecks] using hpass
    exact invalidateDerived_inv (toggleError_inv h (blockOf k) hj)
  case sclr => exact clearSnapshot_inv (setSyndromeValid_inv (clearSyndrome_inv h) (clearSyndrome_weight s))
  case xacc k => exact clearSnapshot_inv (loadSyndrome_inv h _)
  case syn =>
    exact clearSnapshot_inv (setSyndromeValid_inv (loadSyndrome_inv h _) (loadSyndrome_weight h.parameters _))
  case stog j =>
    obtain ⟨hj, -⟩ : j < s.cfg.R ∧ _ := by simpa [ownChecks] using hpass
    exact toggleSyndrome_inv h hj
  case flip k j =>
    obtain ⟨-, hj, hmv, -⟩ : _ ∧ j < s.cfg.R ∧ s.mv.get (blockOf k) = true ∧ _ := by
      simpa [ownChecks] using hpass
    exact flip_inv h hmv hj
  case cnt =>
    obtain ⟨h0, h1, hsv⟩ : s.mv.get .b0 = true ∧ s.mv.get .b1 = true ∧ s.sv = true := by
      simpa [ownChecks] using hpass
    exact setCountersValid_inv (rebuildCounters_inv h) (rebuildCounters_counter_le s) h0 h1 hsv
  case selr L lo hi =>
    obtain ⟨-, hctv⟩ : _ ∧ s.ctv = true := by simpa [ownChecks] using hpass
    exact writeList_inv h hctv (listOf L) (selected_selection h hctv lo hi)
  case topk L K =>
    obtain ⟨-, -, hctv⟩ : _ ∧ _ ∧ s.ctv = true := by simpa [ownChecks] using hpass
    exact writeList_inv h hctv (listOf L) (topRanked_selection h hctv K)
  case flipl L =>
    obtain ⟨-, h0, h1, -, -, hlv⟩ :
        _ ∧ s.mv.get .b0 = true ∧ s.mv.get .b1 = true ∧ _ ∧ _ ∧ s.lv.get (listOf L) = true := by
      simpa [ownChecks] using hpass
    exact flipEntries_inv h _ (fun k => by cases k <;> assumption) fun e he => ((h.lists _ hlv).inRange e he).1
  all_goals exact h

/-! ## Every step -/

/-- The first failing check is one of the checks, and it fails. -/
theorem mem_of_firstFailure {cs : List Check} {e : FaultCode} (h : firstFailure cs = some e) : (false, e) ∈ cs := by
  induction cs with
  | nil => cases h
  | cons c cs ih =>
    obtain ⟨ok, f⟩ := c
    cases ok with
    | false =>
      obtain rfl : f = e := by simpa using h
      exact List.mem_cons_self
    | true => exact List.mem_cons_of_mem _ (ih (by simpa using h))

/-- No check of a command's own answers the code of the fault state. -/
theorem ownChecks_ne_faulted {i : Instr} {s : State} {c : Check} (hc : c ∈ ownChecks i s) : c.2 ≠ .faulted := by
  revert c
  cases i <;>
    simp [ownChecks, below, atMost, legalBlock, legalList, needMatrix, needError, needSyndrome, needCounters, needList,
      weightMatches, sourceValid]

/-- Only the fault state answers its code. -/
theorem fault_of_firstFailure_faulted {i : Instr} {s : State} (h : firstFailure (commandChecks i s) = some .faulted) :
    s.fault = true := by
  have hmem := mem_of_firstFailure h
  unfold commandChecks at hmem
  split at hmem
  · exact absurd rfl (ownChecks_ne_faulted hmem)
  · rcases List.mem_cons.mp hmem with heq | hmem
    · simpa [notFaulted] using (congrArg Prod.fst heq).symm
    · exact absurd rfl (ownChecks_ne_faulted hmem)

theorem ownChecks_pass {i : Instr} {s : State} (h : firstFailure (commandChecks i s) = none) :
    ∀ c ∈ ownChecks i s, c.1 = true := by
  have hall := firstFailure_eq_none_iff.mp h
  unfold commandChecks at hall
  split at hall
  · exact hall
  · exact fun c hc => hall c (List.mem_cons_of_mem _ hc)

theorem exec_inv {s t : State} (h : s.Inv) {i : Instr} (hexec : exec i s = .next t) : t.Inv := by
  rw [exec_eq_runCommand] at hexec
  rcases runCommand_cases hexec with ⟨e, he, rfl⟩ | ⟨hnone, rfl⟩
  · exact raise_inv h (fun hf => fault_of_firstFailure_faulted (hf ▸ he)) _
  · exact (commandEffect_inv h i (ownChecks_pass hnone)).of_sck rfl

/-- A word that is no command answers the code of the fault state only in it. -/
theorem fault_of_wordFault_faulted {e : DecodeError} {cw : Word} {s : State} (h : wordFault e cw s = .faulted) :
    s.fault = true := by
  unfold wordFault at h
  split at h
  · next hcond => exact (Bool.and_eq_true_iff.mp hcond).1
  · cases e <;> cases h

theorem executeWord_inv {s t : State} (h : s.Inv) {cw : Word} (hexec : executeWord cw s = .next t) : t.Inv := by
  cases hd : decode cw with
  | error e =>
    rw [executeWord_of_error hd] at hexec
    obtain rfl := Host.Outcome.next.inj hexec
    exact raise_inv h fault_of_wordFault_faulted cw
  | ok i => exact exec_inv h ((executeWord_of_ok hd s).symm.trans hexec)

/-- Settles O59, by the three things a step can do. -/
theorem stepKeepsInvariant : Obligations.StepKeepsInvariant := by
  intro s t h hstep
  rcases step_cases s with ⟨-, hidle⟩ | ⟨rest, -, hreset⟩ | ⟨cw, rest, -, hword⟩
  · exact Host.Outcome.next.inj (hidle.symm.trans hstep) ▸ h
  · exact Host.Outcome.next.inj (hreset.symm.trans hstep) ▸ (resetOf_inv h.parameters).of_sck rfl
  · exact executeWord_inv h (hword.symm.trans hstep)

end Sys2Proof.Machine

/-! # Validity flags and reset values (10_state.md)

The validity flags after a command that passes its checks, and the state after reset. -/

namespace Sys2Proof.Machine

open Sys2Proof

/-! ## Operands that name a block or a list -/

@[simp] theorem legalBlock_holds (n : Nat) : (legalBlock n).1 = decide (n < Config.INDEX) := rfl
@[simp] theorem legalList_holds (n : Nat) : (legalList n).1 = decide (n < Config.NLIST) := rfl

theorem blockOf_toNat {n : Nat} (h : n < Config.INDEX) : (blockOf n).toNat = n := by
  simp only [Config.INDEX] at h
  obtain rfl | rfl : n = 0 ∨ n = 1 := by omega
  all_goals rfl

theorem listOf_toNat {n : Nat} (h : n < Config.NLIST) : (listOf n).toNat = n := by
  simp only [Config.NLIST] at h
  obtain rfl | rfl | rfl : n = 0 ∨ n = 1 ∨ n = 2 := by omega
  all_goals rfl

/-! ## What a set of one block or list changes -/

theorem Blocks.of_get_set_ne {α : Type} {p : Blocks α} {k k' : Block} {v : α} (h : (p.set k v).get k' ≠ p.get k') :
    k' = k ∧ (p.set k v).get k' = v := by
  by_cases heq : k' = k
  · exact ⟨heq, heq ▸ p.get_set_same k v⟩
  · exact absurd (p.get_set_ne v heq) h

theorem Lists.of_get_set_ne {α : Type} {p : Lists α} {L L' : ListId} {v : α} (h : (p.set L v).get L' ≠ p.get L') :
    L' = L ∧ (p.set L v).get L' = v := by
  by_cases heq : L' = L
  · exact ⟨heq, heq ▸ p.get_set_same L v⟩
  · exact absurd (p.get_set_ne v heq) h

/-! ## The flags after a command that passes its checks (R25 to R29, R43) -/

theorem commandEffect_mv (i : Instr) (s : State) :
    (commandEffect i s).mv =
      match i with
      | .trn _ n => s.mv.set (blockOf n) true
      | .wrs _ n _ _ => s.mv.set (blockOf n) false
      | .srst => ⟨false, false⟩
      | _ => s.mv := by
  cases i <;> simp [commandEffect]

theorem commandEffect_ev (i : Instr) (s : State) :
    (commandEffect i s).ev = match i with | .eclr => true | .srst => false | _ => s.ev := by
  cases i <;> simp [commandEffect]

theorem commandEffect_sv (i : Instr) (s : State) :
    (commandEffect i s).sv =
      match i with
      | .sclr | .syn => true
      | .wrs _ _ _ _ | .eclr | .etog _ _ | .srst => false
      | _ => s.sv := by
  cases i <;> simp [commandEffect]

theorem commandEffect_ctv (i : Instr) (s : State) :
    (commandEffect i s).ctv =
      match i with
      | .cnt => true
      | .wrs _ _ _ _ | .eclr | .etog _ _ | .sclr | .xacc _ | .syn | .srst => false
      | _ => s.ctv := by
  cases i <;> simp [commandEffect]

theorem commandEffect_lv (i : Instr) (s : State) :
    (commandEffect i s).lv =
      match i with
      | .selr n _ _ | .topk n _ => s.lv.set (listOf n) true
      | .wrs _ _ _ _ | .eclr | .etog _ _ | .sclr | .xacc _ | .syn | .srst => ⟨false, false, false⟩
      | _ => s.lv := by
  cases i <;> simp [commandEffect]

/-- The block of a command that sets or clears `MV` is the one its index names. -/
theorem mv_changed_of_set {n : Nat} {k : Block} {v : Bool} {s : State} (hn : n < Config.INDEX)
    (h : (s.mv.set (blockOf n) v).get k ≠ s.mv.get k) : n = k.toNat ∧ (s.mv.set (blockOf n) v).get k = v := by
  obtain ⟨rfl, hv⟩ := Blocks.of_get_set_ne h
  exact ⟨(blockOf_toNat hn).symm, hv⟩

/-- The list of a command that sets `LV` is the one its id names. -/
theorem lv_changed_of_set {n : Nat} {L : ListId} {v : Bool} {s : State} (hn : n < Config.NLIST)
    (h : (s.lv.set (listOf n) v).get L ≠ s.lv.get L) : n = L.toNat ∧ (s.lv.set (listOf n) v).get L = v := by
  obtain ⟨rfl, hv⟩ := Lists.of_get_set_ne h
  exact ⟨(listOf_toNat hn).symm, hv⟩

/-- Settles O21: a fault changes no flag, and a command that passes its checks leaves the flags the lemmas above say;
the checks make its index or id a legal one. -/
theorem flagsChangeOnlyByTheirCommands : Obligations.FlagsChangeOnlyByTheirCommands := by
  intro i s t hexec
  rw [exec_eq_runCommand] at hexec
  rcases runCommand_cases hexec with ⟨e, -, rfl⟩ | ⟨hnone, rfl⟩
  · simp
  have hpass := ownChecks_pass hnone
  simp only [complete, respond_mv, respond_ev, respond_sv, respond_ctv, respond_lv]
  refine ⟨fun k hk => ?mv, fun hev => ?ev, fun hsv => ?sv, fun hctv => ?ctv, fun L hL => ?lv⟩
  case mv =>
    rw [commandEffect_mv] at hk ⊢
    cases i
    case trn d n =>
      obtain ⟨hn, -⟩ : n < Config.INDEX ∧ _ := by simpa [ownChecks] using hpass
      exact mv_changed_of_set hn hk
    case wrs sel n l p =>
      obtain ⟨hn, -⟩ : n < Config.INDEX ∧ _ := by simpa [ownChecks] using hpass
      exact mv_changed_of_set hn hk
    case srst => exact Blocks.get_mk_same false k
    all_goals exact hk rfl
  case ev =>
    rw [commandEffect_ev] at hev ⊢
    cases i
    case eclr | srst => rfl
    all_goals exact hev rfl
  case sv =>
    rw [commandEffect_sv] at hsv ⊢
    cases i
    case sclr | syn | wrs | eclr | etog | srst => rfl
    all_goals exact hsv rfl
  case ctv =>
    rw [commandEffect_ctv] at hctv ⊢
    cases i
    case cnt | wrs | eclr | etog | sclr | xacc | syn | srst => rfl
    all_goals exact hctv rfl
  case lv =>
    rw [commandEffect_lv] at hL ⊢
    cases i
    case selr n lo hi =>
      obtain ⟨hn, -⟩ : n < Config.NLIST ∧ _ := by simpa [ownChecks] using hpass
      exact lv_changed_of_set hn hL
    case topk n K =>
      obtain ⟨hn, -⟩ : n < Config.NLIST ∧ _ := by simpa [ownChecks] using hpass
      exact lv_changed_of_set hn hL
    case wrs | eclr | etog | sclr | xacc | syn | srst => exact Lists.get_mk_same false L
    all_goals exact hL rfl

/-! ## Reset (R44) -/

@[simp] theorem resetOf_errBit (p : Config.Params) (k : Block) (j : Nat) : (State.resetOf p).errBit k j = false := by
  cases k <;> rfl
@[simp] theorem resetOf_synBit (p : Config.Params) (j : Nat) : (State.resetOf p).synBit j = false := rfl
@[simp] theorem resetOf_counter (p : Config.Params) (k : Block) (j : Nat) : (State.resetOf p).counter k j = 0 := by
  cases k <;> rfl
@[simp] theorem resetOf_entry (p : Config.Params) (L : ListId) (n : Nat) :
    (State.resetOf p).entry L n = ⟨.b0, 0, 0⟩ := by
  cases L <;> rfl

/-- Settles O27: the registers and flags are 0 as reset writes them, the elements because no memory lists one. -/
theorem resetValues : Obligations.ResetValues := by
  rintro p s rfl
  exact ⟨rfl, rfl, rfl, Lists.get_mk_same 0, Blocks.get_mk_same false, rfl, rfl, rfl, Lists.get_mk_same false, rfl, rfl,
    rfl, resetOf_sparse p .columns, resetOf_sparse p .rows, resetOf_errBit p, resetOf_synBit p, resetOf_counter p,
    resetOf_entry p⟩

/-- Settles O60: the reference configuration is a legal one. -/
theorem resetSatisfiesInvariant : Obligations.ResetSatisfiesInvariant :=
  ⟨fun _ hp => resetOf_inv hp, resetOf_inv (by decide)⟩

end Sys2Proof.Machine

/-! # Memories (20_memory.md)

The commands that write each memory, weight and length register; the commands that only read; words moved as bytes; the
window of a dense vector. -/

namespace Sys2Proof.Machine

open Sys2Proof

/-! ## The writers of each memory and register (R50; 10_state.md sections 1 and 3) -/

/-- The writers of `COL` (10_state.md R30). -/
def writesColumns : Instr → Prop
  | .wrs .columns _ _ _ | .trn .backward _ | .srst => True
  | _ => False

/-- The writers of `ROW` (10_state.md R31). -/
def writesRows : Instr → Prop
  | .wrs .rows _ _ _ | .trn .forward _ | .srst => True
  | _ => False

/-- The writers of `ERR` and `EW` (10_state.md R20, R32). -/
def writesError : Instr → Prop
  | .eclr | .etog _ _ | .flip _ _ | .flipl _ | .srst => True
  | _ => False

/-- The writers of `SYN` and `SW` (10_state.md R21, R33). -/
def writesSyndrome : Instr → Prop
  | .sclr | .stog _ | .xacc _ | .syn | .flip _ _ | .flipl _ | .srst => True
  | _ => False

/-- The writers of `CTR` (10_state.md R34). -/
def writesCounters : Instr → Prop
  | .cnt | .srst => True
  | _ => False

/-- The writers of `LIST` and `LLEN` (10_state.md R23, R35). -/
def writesLists : Instr → Prop
  | .selr _ _ _ | .topk _ _ | .srst => True
  | _ => False

theorem commandEffect_col (i : Instr) (s : State) : (commandEffect i s).col = s.col ∨ writesColumns i := by
  cases i
  case wrs sel k l p =>
    cases sel
    case columns => exact .inr trivial
    case rows => exact .inl (by simp [commandEffect])
  case trn d k =>
    cases d
    case backward => exact .inr trivial
    case forward => exact .inl (by simp [commandEffect, destinationSide])
  case srst => exact .inr trivial
  all_goals exact .inl (by simp [commandEffect])

theorem commandEffect_row (i : Instr) (s : State) : (commandEffect i s).row = s.row ∨ writesRows i := by
  cases i
  case wrs sel k l p =>
    cases sel
    case rows => exact .inr trivial
    case columns => exact .inl (by simp [commandEffect])
  case trn d k =>
    cases d
    case forward => exact .inr trivial
    case backward => exact .inl (by simp [commandEffect, destinationSide])
  case srst => exact .inr trivial
  all_goals exact .inl (by simp [commandEffect])

theorem commandEffect_err_ew (i : Instr) (s : State) :
    ((commandEffect i s).err = s.err ∧ (commandEffect i s).ew = s.ew) ∨ writesError i := by
  cases i
  case eclr | etog | flip | flipl | srst => exact .inr trivial
  all_goals exact .inl (by simp [commandEffect])

theorem commandEffect_syn_sw (i : Instr) (s : State) :
    ((commandEffect i s).syn = s.syn ∧ (commandEffect i s).sw = s.sw) ∨ writesSyndrome i := by
  cases i
  case sclr | stog | xacc | syn | flip | flipl | srst => exact .inr trivial
  all_goals exact .inl (by simp [commandEffect])

theorem commandEffect_ctr (i : Instr) (s : State) : (commandEffect i s).ctr = s.ctr ∨ writesCounters i := by
  cases i
  case cnt | srst => exact .inr trivial
  all_goals exact .inl (by simp [commandEffect])

theorem commandEffect_list_llen (i : Instr) (s : State) :
    ((commandEffect i s).list = s.list ∧ (commandEffect i s).llen = s.llen) ∨ writesLists i := by
  cases i
  case selr | topk | srst => exact .inr trivial
  all_goals exact .inl (by simp [commandEffect])

/-- Settles O20: a fault writes none of them, and a command that passes its checks writes what the lemmas above say. -/
theorem memoriesWrittenOnlyByTheirCommands : Obligations.MemoriesWrittenOnlyByTheirCommands := by
  intro i s t hexec
  rw [exec_eq_runCommand] at hexec
  rcases runCommand_cases hexec with ⟨e, -, rfl⟩ | ⟨-, rfl⟩
  · simp
  have herr := commandEffect_err_ew i s
  have hsyn := commandEffect_syn_sw i s
  have hlist := commandEffect_list_llen i s
  exact ⟨commandEffect_col i s, commandEffect_row i s, herr.imp_left And.left, hsyn.imp_left And.left,
    commandEffect_ctr i s, hlist.imp_left And.left, herr.imp_left And.right, hsyn.imp_left And.right,
    hlist.imp_left And.right⟩

/-! ## The reading commands (R54) -/

/-- What a command checks and answers depends on the SCK's own state alone. -/
theorem commandChecks_congr {s t : State} (h : t.sck = s.sck) (i : Instr) : commandChecks i t = commandChecks i s := by
  rw [← commandChecks_sck i t, h, commandChecks_sck]

theorem responseFields_congr {s t : State} (h : t.sck = s.sck) (i : Instr) :
    responseFields i t = responseFields i s := by
  rw [← responseFields_sck i t, h, responseFields_sck]

theorem FaultCode.code_ne_zero (e : FaultCode) : e.code ≠ 0x00 := by
  cases e <;> decide

/-- A command that answers status 0 has passed its checks. -/
theorem complete_of_status_zero {i : Instr} {s t : State} {rw : Word} (hexec : exec i s = .next t)
    (hresp : t.resp = some rw) (hstatus : opField rw = 0x00) :
    firstFailure (commandChecks i s) = none ∧ t = complete i s := by
  rw [exec_eq_runCommand] at hexec
  rcases runCommand_cases hexec with ⟨e, -, rfl⟩ | hpass
  · obtain rfl : wordOf e.code 0x00 0 0 = rw := by simpa using hresp
    exact absurd (by simpa using hstatus) e.code_ne_zero
  · exact hpass

/-- A command that passes its checks completes in every state that differs at the port alone. -/
theorem exec_of_pass_of_sck {i : Instr} {s t : State} (hsck : t.sck = s.sck)
    (hpass : firstFailure (commandChecks i s) = none) : exec i t = .next (complete i t) := by
  rw [exec_eq_runCommand]
  exact runCommand_of_pass _ t (commandChecks_congr hsck i ▸ hpass)

theorem commandEffect_of_readsOnly {i : Instr} (h : i.readsOnly = true) (s : State) : commandEffect i s = s := by
  cases i
  case rds | rdd | rde | rdew | rdsy | rdsw | getc | rdc | rdl | rdln | rdst | rdcfg | nop => rfl
  all_goals cases h

/-- Settles O22: a success left the port alone changed, so the checks pass again and the response fields are the same. -/
theorem readsChangeNothing : Obligations.ReadsChangeNothing := by
  intro i s t u rw hreads hexec hresp hstatus
  obtain ⟨hpass, rfl⟩ := complete_of_status_zero hexec hresp hstatus
  have hsck : (complete i s).sck = s.sck := by rw [complete_sck, commandEffect_of_readsOnly hreads]
  refine ⟨?_, fun hagain => ?_⟩
  · rw [← hresp, complete_resp, complete, commandEffect_of_readsOnly hreads]
    rfl
  · obtain rfl := Host.Outcome.next.inj ((exec_of_pass_of_sck hsck hpass).symm.trans hagain)
    rw [← hresp, complete_resp, complete_resp, responseFields_congr hsck]

/-! ## The window (R56; 40_block_algebra.md R94, R95) -/

theorem windowTwoPass_eq_window {R x j : Nat} (hx : x < R) (hj : j < R) (Y : Nat → Bool) :
    windowTwoPass R Y x j = window R Y x j := by
  rw [windowTwoPass, window, mod_eq_ite (by omega)]
  by_cases h : j < R - x
  · rw [if_pos h, if_pos (by omega)]
  · rw [if_neg h, if_neg (by omega)]

theorem windowDoubled_eq_window {R x j : Nat} (hx : x < R) (hj : j < R) (Y : Nat → Bool) :
    windowDoubled R Y x j = window R Y x j := by
  rw [windowDoubled, doubled, window, mod_eq_ite (by omega)]
  split <;> rfl

theorem mulx_eq_parity_muladd (R : Nat) (X : List Nat) (Y : Nat → Bool) (j : Nat) :
    mulx R X Y j = decide (muladd R X Y j % 2 = 1) := by
  rw [mulx, xorAll_eq_parity, List.map_map]
  rfl

/-- Settles O53: below `R` a position and an offset wrap at most once, and the XOR of bits is the parity of their sum. -/
theorem windowAndParityLaws : Obligations.WindowAndParityLaws :=
  ⟨fun _ _ _ Y hx hj => ⟨windowTwoPass_eq_window hx hj Y, windowDoubled_eq_window hx hj Y⟩,
    fun R X Y j => ⟨muladd_le_length R X Y j, mulx_eq_parity_muladd R X Y j⟩⟩

/-! ## Words moved as bytes (R52) -/

theorem bytesOfWord_eq_map (w : Word) : bytesOfWord w = (List.range 8).map fun n => w.extractLsb' (8 * n) 8 := rfl

/-- Adjacent bytes join to a longer slice of the word, from the top byte down to bit 0. -/
theorem wordOfBytes_bytesOfWord (w : Word) : wordOfBytes (bytesOfWord w) = some w := by
  rw [bytesOfWord, wordOfBytes]
  repeat rw [BitVec.extractLsb'_append_extractLsb'_eq_extractLsb' (by rfl)]
  rw [BitVec.extractLsb'_eq_self]

/-- Settles O7: the list of bytes read by index, its length, and the joining of its bytes. -/
theorem wordBytesLittleEndian : Obligations.WordBytesLittleEndian := by
  intro w
  refine ⟨fun n hn => ?_, rfl, wordOfBytes_bytesOfWord w⟩
  simp [bytesOfWord_eq_map, hn]

end Sys2Proof.Machine

/-! # Encoding (30_encoding.md)

What the decoder reads out of a word is what the encoder puts into it, field by field; the opcode map and the opcode table
match the same words. -/

namespace Sys2Proof.Machine

open Sys2Proof

/-! ## The fields of a word (R70) -/

@[simp] theorem wordOf_fields (w : Word) : wordOf (opField w) (subField w) (aField w) (bField w) = w := by
  unfold wordOf opField subField aField bField
  repeat rw [BitVec.extractLsb'_append_extractLsb'_eq_extractLsb' (by rfl)]
  rw [BitVec.extractLsb'_eq_self]

theorem word_eq_iff {v w : Word} :
    v = w ↔ opField v = opField w ∧ subField v = subField w ∧ aField v = aField w ∧ bField v = bField w := by
  refine ⟨fun h => by simp [h], fun ⟨hop, hsub, ha, hb⟩ => ?_⟩
  rw [← wordOf_fields v, hop, hsub, ha, hb, wordOf_fields]

@[simp] theorem opField_and (v w : Word) : opField (v &&& w) = opField v &&& opField w := BitVec.extractLsb'_and
@[simp] theorem subField_and (v w : Word) : subField (v &&& w) = subField v &&& subField w := BitVec.extractLsb'_and
@[simp] theorem aField_and (v w : Word) : aField (v &&& w) = aField v &&& aField w := BitVec.extractLsb'_and
@[simp] theorem bField_and (v w : Word) : bField (v &&& w) = bField v &&& bField w := BitVec.extractLsb'_and

/-- A mask that spares the opcode meets a word in zero field by field. -/
theorem and_wordOf_eq_zero_iff {cw : Word} {sub : Byte} {a b : Reg24} :
    cw &&& wordOf 0x00 sub a b = 0 ↔ subField cw &&& sub = 0 ∧ aField cw &&& a = 0 ∧ bField cw &&& b = 0 := by
  have hzero : (0 : Word) = wordOf 0 0 0 0 := rfl
  rw [word_eq_iff, hzero]
  simp

/-! ## Operands and the fields that hold them (R72, R73) -/

theorem toNat_eq_iff_fitsSelector {sub : Byte} {n : Nat} :
    sub.toNat = n ↔ fitsSelector n = true ∧ sub = BitVec.ofNat 8 n := by
  simp only [fitsSelector, decide_eq_true_eq, ← BitVec.toNat_inj, BitVec.toNat_ofNat]
  omega

theorem toNat_eq_iff_fitsOperand {a : Reg24} {n : Nat} :
    a.toNat = n ↔ fitsOperand n = true ∧ a = BitVec.ofNat 24 n := by
  simp only [fitsOperand, decide_eq_true_eq, ← BitVec.toNat_inj, BitVec.toNat_ofNat]
  omega

theorem indexOf_eq_mod (sub : Byte) : indexOf sub = sub.toNat % 16 := by
  simp [indexOf]

/-- Bits 7 to 4 are zero. -/
theorem and_index_mask_eq_zero_iff : ∀ sub : Byte, sub &&& 0xF0#8 = 0#8 ↔ sub.toNat < 16 := by decide

/-- Bits 7 to 5 are zero. -/
theorem and_flagged_mask_eq_zero_iff : ∀ sub : Byte, sub &&& 0xE0#8 = 0#8 ↔ sub.toNat < 32 := by decide

theorem getLsbD_four_toNat (sub : Byte) : (sub.getLsbD 4).toNat = sub.toNat / 16 % 2 := by
  rw [← BitVec.testBit_toNat, Nat.toNat_testBit]

theorem index_field_iff {sub : Byte} {k : Nat} :
    sub &&& 0xF0#8 = 0#8 ∧ indexOf sub = k ↔ fitsIndex k = true ∧ sub = BitVec.ofNat 8 k := by
  rw [and_index_mask_eq_zero_iff, indexOf_eq_mod, fitsIndex, decide_eq_true_eq, ← BitVec.toNat_inj, BitVec.toNat_ofNat]
  omega

theorem flagged_field_iff {sub : Byte} {f k : Nat} (hf : f < 2) :
    sub &&& 0xE0#8 = 0#8 ∧ (sub.getLsbD 4).toNat = f ∧ indexOf sub = k ↔
      fitsIndex k = true ∧ sub = BitVec.ofNat 8 (16 * f + k) := by
  rw [and_flagged_mask_eq_zero_iff, getLsbD_four_toNat, indexOf_eq_mod, fitsIndex, decide_eq_true_eq,
    ← BitVec.toNat_inj, BitVec.toNat_ofNat]
  omega

theorem sideOf_eq_iff {sub : Byte} {sel : Side} : sideOf sub = sel ↔ (sub.getLsbD 4).toNat = sel.bit := by
  unfold sideOf
  cases sub.getLsbD 4 <;> cases sel <;> decide

theorem directionOf_eq_iff {sub : Byte} {d : Direction} : directionOf sub = d ↔ (sub.getLsbD 4).toNat = d.bit := by
  unfold directionOf
  cases sub.getLsbD 4 <;> cases d <;> decide

/-! ## The opcode map and the decoder (R74 to R77) -/

/-- No two rows share an opcode. -/
theorem rowOfOp_op {r : OpcodeRow} (hr : r ∈ opcodeMap) : rowOfOp r.op = some r := by
  fin_cases hr <;> rfl

theorem rowOfOp_eq_some_iff {op : Byte} {r : OpcodeRow} : rowOfOp op = some r ↔ r ∈ opcodeMap ∧ r.op = op := by
  refine ⟨fun h => ⟨List.mem_of_find?_eq_some h, by simpa using List.find?_some h⟩, ?_⟩
  rintro ⟨hr, rfl⟩
  exact rowOfOp_op hr

/-- A row builds commands of its own opcode. -/
theorem opcode_build {r : OpcodeRow} (hr : r ∈ opcodeMap) (sub : Byte) (a b : Reg24) :
    (r.build sub a b).opcode = r.op := by
  fin_cases hr <;> rfl

theorem exists_row (i : Instr) : ∃ r, rowOfOp i.opcode = some r := by
  cases i <;> exact ⟨_, rfl⟩

theorem decode_of_noRow {cw : Word} (h : rowOfOp (opField cw) = none) : decode cw = .error .opcode := by
  simp [decode, h]

theorem decode_of_row {cw : Word} {r : OpcodeRow} (h : rowOfOp (opField cw) = some r) :
    decode cw = if cw &&& r.format.reserved = 0 then .ok (r.build (subField cw) (aField cw) (bField cw))
      else .error .field := by
  simp [decode, h]

theorem decode_eq_ok_iff_row {cw : Word} {i : Instr} :
    decode cw = .ok i ↔ ∃ r, rowOfOp (opField cw) = some r ∧ cw &&& r.format.reserved = 0 ∧
      r.build (subField cw) (aField cw) (bField cw) = i := by
  cases hrow : rowOfOp (opField cw) with
  | none => simp [decode_of_noRow hrow]
  | some r =>
    rw [decode_of_row hrow]
    split <;> simp_all

theorem decode_eq_error_opcode_iff {cw : Word} : decode cw = .error .opcode ↔ rowOfOp (opField cw) = none := by
  cases hrow : rowOfOp (opField cw) with
  | none => simp [decode_of_noRow hrow]
  | some r =>
    rw [decode_of_row hrow]
    split <;> simp

/-- The row that reads a word is the row of the command it reads. -/
theorem decode_eq_ok_iff_opcode {cw : Word} {i : Instr} :
    decode cw = .ok i ↔ opField cw = i.opcode ∧ ∃ r, rowOfOp i.opcode = some r ∧ cw &&& r.format.reserved = 0 ∧
      r.build (subField cw) (aField cw) (bField cw) = i := by
  rw [decode_eq_ok_iff_row]
  constructor
  · rintro ⟨r, hrow, hres, rfl⟩
    obtain ⟨hr, hop⟩ := rowOfOp_eq_some_iff.mp hrow
    rw [opcode_build hr, hop]
    exact ⟨rfl, r, hrow, hres, rfl⟩
  · rintro ⟨hop, r, hrow, hres, hbuild⟩
    exact ⟨r, hop ▸ hrow, hres, hbuild⟩

/-! ## Round trips (R77, R79) -/

/-- A row reads a command out of three fields, reserved bits zero, exactly when the command fits them and they are its
operands (R72, R73). Formats without an operand close at once; the others go by what their `sub` holds: a selector, a flag
with an index, nothing, or an index. -/
theorem build_eq_iff {i : Instr} {r : OpcodeRow} (hrow : rowOfOp i.opcode = some r) {cw : Word} :
    cw &&& r.format.reserved = 0 ∧ r.build (subField cw) (aField cw) (bField cw) = i ↔
      i.wellFormed = true ∧ subField cw = BitVec.ofNat 8 i.subOperand ∧ aField cw = BitVec.ofNat 24 i.aOperand ∧
        bField cw = BitVec.ofNat 24 i.bOperand := by
  have hsub : subField cw &&& 0xFF#8 = subField cw := BitVec.and_allOnes
  have ha : aField cw &&& 0xFFFFFF#24 = aField cw := BitVec.and_allOnes
  have hb : bField cw &&& 0xFFFFFF#24 = bField cw := BitVec.and_allOnes
  cases i
  all_goals
    obtain rfl := Option.some.inj hrow
    simp only [Format.reserved, and_wordOf_eq_zero_iff, Instr.wellFormed, Instr.subOperand, Instr.aOperand,
      Instr.bOperand]
    simp [hsub, ha, hb, toNat_eq_iff_fitsOperand]
  case rdst | rdcfg =>
    rw [toNat_eq_iff_fitsSelector]
    tauto
  case wrs sel k _ _ | rds sel k _ | rdd sel k _ =>
    have hflag := flagged_field_iff (sub := subField cw) (k := k) (Laws.ReservedZero.side_lt sel)
    rw [← sideOf_eq_iff] at hflag
    tauto
  case trn d k =>
    have hflag := flagged_field_iff (sub := subField cw) (k := k) (Laws.ReservedZero.direction_lt d)
    rw [← directionOf_eq_iff] at hflag
    tauto
  case stog | rdsy => tauto
  case xacc k | etog k _ | rde k _ | flip k _ | getc k _ | rdc k _ | selr k _ _ | topk k _ | flipl k | rdl k _
      | rdln k =>
    have hindex := index_field_iff (sub := subField cw) (k := k)
    tauto

/-- A word decodes to a command exactly when it is the encoding of it and the command has one (R77, R79). -/
theorem decode_eq_ok_iff {cw : Word} {i : Instr} : decode cw = .ok i ↔ i.wellFormed = true ∧ encode i = cw := by
  obtain ⟨r, hrow⟩ := exists_row i
  rw [decode_eq_ok_iff_opcode, hrow, word_eq_iff]
  simp only [Option.some.injEq, exists_eq_left', build_eq_iff hrow, opField_encode, subField_encode, aField_encode,
    bField_encode]
  tauto

/-- Settles O1: the word of a well-formed command is a word that decodes to it. -/
theorem decodeEncodeRoundTrip : Obligations.DecodeEncodeRoundTrip :=
  fun _ hwf => decode_eq_ok_iff.mpr ⟨hwf, rfl⟩

/-- Settles O2: a word decodes to a command only as its encoding. -/
theorem encodeDecodeRoundTrip : Obligations.EncodeDecodeRoundTrip :=
  fun _ _ hdecode => decode_eq_ok_iff.mp hdecode

/-! ## Words that are no command (R75, R76) -/

/-- The op bytes without a row are those that R75 lists. -/
theorem rowOfOp_eq_none_iff {op : Byte} : rowOfOp op = none ↔ IllegalOp op.toNat := by
  have hbound := op.isLt
  rw [rowOfOp, List.find?_eq_none]
  simp [opcodeMap, systemRows, matrixRows, errorRows, syndromeRows, rankingRows, ← BitVec.toNat_inj, IllegalOp]
  omega

theorem raise_eq_afterFault (e : FaultCode) (cw : Word) (s : State) : raise e cw s = s.afterFault e.code cw := by
  unfold raise enterFault State.afterFault
  cases hf : s.fault <;> simp [answer, hf]

/-- Outside the fault state a word that is no command takes the fault of its decoding (R75, R76). -/
theorem step_of_decode_error {s : State} {cw : Word} {rest : List HostEvent} {e : DecodeError} (hf : s.fault = false)
    (hhost : s.host = .command cw :: rest) (hdecode : decode cw = .error e) :
    step s = .next (s.afterFault (decodeFault e).code cw) := by
  rw [step_of_command hhost, executeWord_of_error hdecode, raise_eq_afterFault]
  simp [wordFault, hf]

/-- Settles O3: the decoder finds no row for exactly the listed opcodes. -/
theorem illegalOpcodesFault : Obligations.IllegalOpcodesFault := by
  have hillegal (cw : Word) : decode cw = .error .opcode ↔ IllegalOp (opField cw).toNat :=
    decode_eq_error_opcode_iff.trans rowOfOp_eq_none_iff
  exact ⟨hillegal, rfl, rfl, fun s cw rest hf hhost hop => step_of_decode_error hf hhost ((hillegal cw).mpr hop)⟩

/-! ## The opcode table (spec/opcode_table.json) -/

/-- A row of the opcode table says of words what a row of the opcode map says: the mnemonic, the opcode, and the opcode with
the reserved bits of the format as mask. -/
structure TableRow.Describes (r : TableRow) (o : OpcodeRow) : Prop where
  mnemonic : o.mnemonic = r.mnemonic
  matchBits : r.matchBits = wordOf o.op 0 0 0
  maskBits : r.maskBits =
    wordOf 0xFF (subField o.format.reserved) (aField o.format.reserved) (bField o.format.reserved)

theorem tableRows_describe_opcodeMap : List.Forall₂ TableRow.Describes tableRows opcodeMap := by
  repeat' constructor

theorem exists_mem_of_forall₂_left {α β : Type} {R : α → β → Prop} {as : List α} {bs : List β} (h : List.Forall₂ R as bs)
    {a : α} (ha : a ∈ as) : ∃ b ∈ bs, R a b := by
  induction h with
  | nil => cases ha
  | cons hab _ ih =>
    rcases List.mem_cons.mp ha with rfl | ha
    · exact ⟨_, List.mem_cons_self, hab⟩
    · obtain ⟨b, hb, hR⟩ := ih ha
      exact ⟨b, List.mem_cons_of_mem _ hb, hR⟩

theorem exists_row_of_tableRow {r : TableRow} (hr : r ∈ tableRows) : ∃ o ∈ opcodeMap, r.Describes o :=
  exists_mem_of_forall₂_left tableRows_describe_opcodeMap hr

theorem exists_tableRow_of_row {o : OpcodeRow} (ho : o ∈ opcodeMap) : ∃ r ∈ tableRows, r.Describes o :=
  exists_mem_of_forall₂_left tableRows_describe_opcodeMap.flip ho

/-- No format reserves a bit of the opcode (R72). -/
theorem reserved_eq_wordOf (f : Format) :
    f.reserved = wordOf 0x00 (subField f.reserved) (aField f.reserved) (bField f.reserved) := by
  cases f <;> rfl

/-- A row of the table matches the words that have its opcode and no reserved bit set (R74). -/
theorem TableRow.Describes.matches_iff {r : TableRow} {o : OpcodeRow} (h : r.Describes o) {cw : Word} :
    cw &&& r.maskBits = r.matchBits ↔ opField cw = o.op ∧ cw &&& o.format.reserved = 0 := by
  have hop : opField cw &&& 0xFF#8 = opField cw := BitVec.and_allOnes
  rw [h.maskBits, h.matchBits, reserved_eq_wordOf, and_wordOf_eq_zero_iff, word_eq_iff]
  simp [hop]

/-- A word that a row of the table matches decodes to a command that the row describes. -/
theorem TableRow.Describes.decode_of_matches {r : TableRow} {o : OpcodeRow} (h : r.Describes o) (ho : o ∈ opcodeMap)
    {cw : Word} (hmatch : cw &&& r.maskBits = r.matchBits) :
    ∃ i, decode cw = .ok i ∧ rowOfOp i.opcode = some o := by
  obtain ⟨hop, hres⟩ := h.matches_iff.mp hmatch
  refine ⟨_, decode_eq_ok_iff_row.mpr ⟨o, rowOfOp_eq_some_iff.mpr ⟨ho, hop.symm⟩, hres, rfl⟩, ?_⟩
  rw [opcode_build ho, rowOfOp_op ho]

/-- A word with the opcode of a table row that the row does not match has a reserved bit set. -/
theorem TableRow.Describes.decode_of_not_matches {r : TableRow} {o : OpcodeRow} (h : r.Describes o) (ho : o ∈ opcodeMap)
    {cw : Word} (hop : opField cw = opField r.matchBits) (hmatch : cw &&& r.maskBits ≠ r.matchBits) :
    decode cw = .error .field := by
  have hop : opField cw = o.op := by rw [hop, h.matchBits, opField_wordOf]
  have hres : cw &&& o.format.reserved ≠ 0 := fun hres => hmatch (h.matches_iff.mpr ⟨hop, hres⟩)
  rw [decode_of_row (rowOfOp_eq_some_iff.mpr ⟨ho, hop.symm⟩), if_neg hres]

/-- Settles O4: such a word has the opcode of a row and a reserved bit of the row's format set. -/
theorem reservedFieldsFault : Obligations.ReservedFieldsFault := by
  intro s cw rest r hf hhost hr hop hmatch
  obtain ⟨o, ho, hdesc⟩ := exists_row_of_tableRow hr
  exact step_of_decode_error hf hhost (hdesc.decode_of_not_matches ho hop hmatch)

/-- Settles O5: rows of the table and of the opcode map match the same words. -/
theorem decodeAgreesWithOpcodeTable : Obligations.DecodeAgreesWithOpcodeTable := by
  refine ⟨fun cw r hr hmatch => ?_, fun cw i hdecode => ?_, fun cw r r' hr hr' hmatch hmatch' => ?_⟩
  · obtain ⟨o, ho, hdesc⟩ := exists_row_of_tableRow hr
    obtain ⟨i, hdecode, hrow⟩ := hdesc.decode_of_matches ho hmatch
    exact ⟨i, o, hdecode, hrow, hdesc.mnemonic⟩
  · obtain ⟨o, hrow, hres, -⟩ := decode_eq_ok_iff_row.mp hdecode
    obtain ⟨ho, hop⟩ := rowOfOp_eq_some_iff.mp hrow
    obtain ⟨r, hr, hdesc⟩ := exists_tableRow_of_row ho
    exact ⟨r, hr, hdesc.matches_iff.mpr ⟨hop.symm, hres⟩⟩
  · obtain ⟨o, ho, hdesc⟩ := exists_row_of_tableRow hr
    obtain ⟨o', ho', hdesc'⟩ := exists_row_of_tableRow hr'
    have hop : o.op = o'.op := (hdesc.matches_iff.mp hmatch).1.symm.trans (hdesc'.matches_iff.mp hmatch').1
    have hrow : o = o' := Option.some.inj (by rw [← rowOfOp_op ho, hop, rowOfOp_op ho'])
    rw [← hdesc.mnemonic, hrow, hdesc'.mnemonic]

/-- Settles O6: each word has a row, its reserved bits are zero, and its fields are the operands. -/
theorem sampleWordsDecode : Obligations.SampleWordsDecode :=
  ⟨rfl, rfl, rfl, rfl, rfl, rfl, rfl, rfl⟩

/-! ## Pseudo-instructions (R80) -/

theorem writePositions_eq_map (k l : Nat) (ps : List Nat) :
    writePositions k l ps = (List.range ps.length).map fun n => Instr.wrs .columns k (l + n) (ps.getD n 0) := by
  induction ps generalizing l with
  | nil => rfl
  | cons p ps ih => simp [writePositions, ih, List.range_succ_eq_map, Function.comp_def, Nat.add_assoc, Nat.add_comm 1]

theorem expand_selgray_of_pos {L th D : Nat} (h : 1 ≤ th) :
    (Pseudo.selgray L th D).expand = [.selr L (max ((th : Int) - D) 0).toNat (th - 1)] := by
  have hlo : (max ((th : Int) - D) 0).toNat = th - D := by omega
  rw [Pseudo.expand, if_neg (by omega), hlo]

/-- Settles O8: the expansions are the definition's cases, `LDCOL` and `SELGRAY` by the two lemmas above. -/
theorem pseudoInstructionsExpand : Obligations.PseudoInstructionsExpand := by
  refine ⟨fun _ _ _ => rfl, fun _ _ _ => rfl, fun k ps => ?ldcol, fun _ => rfl, fun _ _ => rfl, fun _ _ => rfl,
    fun _ _ _ => expand_selgray_of_pos, fun _ => rfl, rfl, rfl⟩
  case ldcol => simp [Pseudo.expand, writePositions_eq_map]

end Sys2Proof.Machine

/-! # Matrix commands (40_block_algebra.md)

The outcome of a command outside the fault state by its own checks, and the four commands that write and read the sparse
blocks. -/

namespace Sys2Proof.Machine

open Sys2Proof

/-! ## The outcome of a command outside the fault state (60_exceptions.md R182) -/

/-- Outside the fault state only a command's own checks can fail. -/
theorem firstFailure_commandChecks {s : State} (hf : s.fault = false) (i : Instr) :
    firstFailure (commandChecks i s) = firstFailure (ownChecks i s) := by
  unfold commandChecks
  split
  · rfl
  · simp [notFaulted, hf]

theorem traps_of_firstFailure {i : Instr} {s : State} {e : FaultCode} (hf : s.fault = false)
    (h : firstFailure (ownChecks i s) = some e) : Traps i s e.code := by
  rw [← firstFailure_commandChecks hf] at h
  rw [Traps, exec_eq_runCommand, runCommand_of_fail _ s h, raise_eq_afterFault]

theorem exec_of_firstFailure_none {i : Instr} {s : State} (hf : s.fault = false)
    (h : firstFailure (ownChecks i s) = none) : exec i s = .next (complete i s) :=
  exec_of_pass_of_sck rfl ((firstFailure_commandChecks hf i).trans h)

/-- A command that only reads answers, and that is all. -/
theorem complete_of_readsOnly {i : Instr} (h : i.readsOnly = true) (s : State) :
    complete i s = s.answering (responseFields i s).1 (responseFields i s).2.1 (responseFields i s).2.2 := by
  rw [complete, commandEffect_of_readsOnly h]
  rfl

/-- A command that answers three zero fields. -/
theorem complete_of_responseFields_zero {i : Instr} {s : State} (h : responseFields i s = (0, 0, 0)) :
    complete i s = { commandEffect i s with host := s.host.tail, resp := some 0 } := by
  have hzero : wordOf 0x00 0 0 0 = 0 := rfl
  rw [complete, h, respond, answer, commandEffect_host, hzero]

@[simp] theorem firstFailure_cons_legalBlock_of_le {n : Nat} (h : 2 ≤ n) (cs : List Check) :
    firstFailure (legalBlock n :: cs) = some .block := by
  simp [legalBlock, Config.INDEX, h.not_gt]

@[simp] theorem firstFailure_cons_legalBlock_toNat (k : Block) (cs : List Check) :
    firstFailure (legalBlock k.toNat :: cs) = firstFailure cs := by
  cases k <;> rfl

@[simp] theorem firstFailure_cons_below (x bound : Nat) (cs : List Check) :
    firstFailure (below x bound :: cs) = if x < bound then firstFailure cs else some .range := by
  simp [below]

@[simp] theorem firstFailure_cons_needMatrix (k : Block) (s : State) (cs : List Check) :
    firstFailure (needMatrix k s :: cs) = if s.mv.get k then firstFailure cs else some .matrix := rfl

@[simp] theorem firstFailure_cons_sourceValid (d : Direction) (k : Block) (s : State) (cs : List Check) :
    firstFailure (sourceValid d k s :: cs) =
      if validSparse s.cfg.R (s.sparse (sourceSide d) k) then firstFailure cs else some .sparse := rfl

@[simp] theorem blockOf_block_toNat (k : Block) : blockOf k.toNat = k := by cases k <;> rfl

/-! ## Positions of the transpose (R91) -/

theorem subMod_zero_left (R p : Nat) : subMod R 0 p = (R - p) % R := by rw [subMod, Nat.zero_add]

theorem subMod_zero_right {R a : Nat} (ha : a < R) : subMod R a 0 = a := by
  rw [subMod, Nat.sub_zero, Nat.add_mod_right, Nat.mod_eq_of_lt ha]

/-- A position is in the transpose when its negation is in the block. -/
theorem mem_transpose_iff_subMod_mem {R : Nat} {P : List Nat} (h : validSparse R P = true) {a : Nat} (ha : a < R) :
    a ∈ transpose R P ↔ subMod R 0 a ∈ P := by
  have hlt := ((validSparse_iff R P).mp h).2
  rw [mem_transpose h]
  constructor
  · rintro ⟨p, hp, rfl⟩
    rwa [subMod_zero_subMod_zero (hlt p hp)]
  · exact fun hmem => ⟨_, hmem, subMod_zero_subMod_zero ha⟩

/-- In a valid matrix either list is the transpose of the other. -/
theorem State.MatrixOk.transpose_source {s : State} {k : Block} (h : s.MatrixOk k) (d : Direction) :
    transpose s.cfg.R (s.sparse (sourceSide d) k) = s.sparse (destinationSide d) k := by
  cases d with
  | forward => exact h.dual.symm
  | backward =>
    show transpose s.cfg.R (s.sparse .rows k) = s.sparse .columns k
    rw [h.dual, transpose_transpose h.columns]

theorem State.MatrixOk.source_valid {s : State} {k : Block} (h : s.MatrixOk k) (d : Direction) :
    validSparse s.cfg.R (s.sparse (sourceSide d) k) = true := by
  cases d with
  | forward => exact h.columns
  | backward => exact h.rows

/-! ## Replacing a sparse memory -/

/-- Replacing a sparse memory by itself changes nothing. -/
theorem setSide_sideMemory_self (sel : Side) (k : Block) (s : State) : setSide sel k (s.sideMemory sel k) s = s := by
  cases sel <;> simp [setSide, State.sideMemory]

/-- The memory made of the list that a canonical memory holds is that memory. -/
theorem sparseMemory_sparse {s : State} {sel : Side} {k : Block} (h : (s.sideMemory sel k).wf s.cfg.W = true) :
    sparseMemory s.cfg.W (s.sparse sel k) = s.sideMemory sel k := by
  refine Memory.ext_read (sparseMemory_wf _ _) h fun l hl => ?_
  rw [sparseMemory, Memory.read_ofFn, if_pos hl]
  simp [State.sparse, hl, num]

theorem State.sideMemory_congr {s t : State} (hcol : t.col = s.col) (hrow : t.row = s.row) (sel : Side) (k : Block) :
    t.sideMemory sel k = s.sideMemory sel k := by
  cases sel <;> simp [State.sideMemory, hcol, hrow]

/-- Responding writes no sparse memory. -/
@[simp] theorem complete_sideMemory (i : Instr) (s : State) (sel : Side) (k : Block) :
    (complete i s).sideMemory sel k = (commandEffect i s).sideMemory sel k :=
  State.sideMemory_congr rfl rfl sel k

@[simp] theorem complete_sparse (i : Instr) (s : State) (sel : Side) (k : Block) :
    (complete i s).sparse sel k = (commandEffect i s).sparse sel k :=
  State.sparse_congr rfl rfl rfl sel k

/-! ## Reading one position, `RDS` (R98) -/

/-- Settles O29: the two checks in order, then the answer of a command that only reads. -/
theorem rdsReadsOnePosition : Obligations.RdsReadsOnePosition := by
  intro s sel k l hf
  refine ⟨fun n hn => ?block, fun hl => ?range, fun hl => ?pass⟩
  case block => exact traps_of_firstFailure hf (e := .block) (by simp [ownChecks, hn])
  case range => exact traps_of_firstFailure hf (e := .range) (by simp [ownChecks, hl.not_gt])
  case pass =>
    rw [exec_of_firstFailure_none hf (by simp [ownChecks, hl]), complete_of_readsOnly rfl]
    simp [responseFields]

/-! ## Reading the dense view, `RDD` (R100) -/

theorem bitNum_decide (p : Prop) [Decidable p] : bitNum (decide p) = if p then 1 else 0 := by
  by_cases h : p <;> simp [h, bitNum, num]

/-- The column list is column 0 of the circulant (00_scope.md R16). -/
theorem mem_iff_Hbit_column_zero {R j : Nat} (hj : j < R) (P : List Nat) : j ∈ P ↔ Hbit R P j 0 = true := by
  simp [Hbit, subMod_zero_right hj]

/-- The row list is row 0 of the circulant (00_scope.md R16). -/
theorem mem_transpose_iff_Hbit_row_zero {R j : Nat} {P : List Nat} (h : validSparse R P = true) (hj : j < R) :
    j ∈ transpose R P ↔ Hbit R P 0 j = true := by
  simp [Hbit, mem_transpose_iff_subMod_mem h hj]

/-- Settles O31: the three checks in order, the answer of a command that only reads, and the two lists as column 0 and
row 0. -/
theorem rddReadsDenseBit : Obligations.RddReadsDenseBit := by
  intro s sel k j hf
  refine ⟨fun n hn => ?block, fun hj => ?range, fun hj hmv => ?matrix, fun hj hmv => ⟨?pass, fun hok => ⟨?_, ?_⟩⟩⟩
  case block => exact traps_of_firstFailure hf (e := .block) (by simp [ownChecks, hn])
  case range => exact traps_of_firstFailure hf (e := .range) (by simp [ownChecks, hj.not_gt])
  case matrix => exact traps_of_firstFailure hf (e := .matrix) (by simp [ownChecks, hj, hmv])
  case pass =>
    rw [exec_of_firstFailure_none hf (by simp [ownChecks, hj, hmv]), complete_of_readsOnly rfl]
    simp [responseFields, bitNum_decide]
  · exact mem_iff_Hbit_column_zero hj _
  · rw [hok.dual]
    exact mem_transpose_iff_Hbit_row_zero hok.columns hj

/-! ## Writing one position, `WRS` (R97) -/

theorem commandEffect_wrs_sideMemory (sel : Side) (k : Block) (l p : Nat) (s : State) (sel' : Side) (k' : Block) :
    (commandEffect (.wrs sel k.toNat l p) s).sideMemory sel' k' =
      if sel' = sel ∧ k' = k then (s.sideMemory sel k).write l (num p) else s.sideMemory sel' k' := by
  rw [commandEffect, blockOf_block_toNat, invalidateDerived_setMatrixValid_setSide, setSide_sideMemory,
    State.sideMemory_congr (s := s) (t := setMatrixValid k false (invalidateDerived s)) rfl rfl]

theorem complete_wrs_frame (sel : Side) (k : Block) (l p : Nat) (s : State) :
    { complete (.wrs sel k.toNat l p) s with col := s.col, row := s.row } =
      { s with mv := s.mv.set k false, sv := false, ctv := false, lv := ⟨false, false, false⟩, host := s.host.tail,
               resp := some 0 } := by
  rw [complete_of_responseFields_zero rfl, commandEffect, blockOf_block_toNat]
  cases sel <;> rfl

/-- Settles O28: the checks in order, then read after write in the one memory that `WRS` writes. -/
theorem wrsWritesOnePosition : Obligations.WrsWritesOnePosition := by
  intro s sel k l p hf
  refine ⟨fun n hn => ?block, fun hout => ?range, fun hlegal hmem hl hp => ?pass⟩
  case block => exact traps_of_firstFailure hf (e := .block) (by simp [ownChecks, hn])
  case range =>
    refine traps_of_firstFailure hf (e := .range) ?_
    rcases hout with hl | hp
    · simp [ownChecks, hl.not_gt]
    · simp [ownChecks, hp.not_gt]
  case pass =>
    have hwf := hmem.sideMemory sel k
    have hN := legal_N_lt hlegal
    refine ⟨_, exec_of_firstFailure_none hf (by simp [ownChecks, hl, hp]), ?_, fun sel' k' l' hne => ?_,
      complete_wrs_frame sel k l p s⟩
    · rw [complete_sideMemory, commandEffect_wrs_sideMemory, if_pos ⟨rfl, rfl⟩, Memory.read_write_same hwf,
        toNat_num (by omega)]
    · rw [complete_sideMemory, commandEffect_wrs_sideMemory]
      split
      · next heq =>
        obtain ⟨rfl, rfl⟩ := heq
        exact Memory.read_write_ne _ _ fun hl' => hne ⟨rfl, rfl, hl'⟩
      · rfl

/-! ## Deriving one list from the other, `TRN` (R99, R101) -/

theorem commandEffect_trn (d : Direction) (k : Block) (s : State) :
    commandEffect (.trn d k.toNat) s =
      setMatrixValid k true (setSide (destinationSide d) k
        (sparseMemory s.cfg.W (transpose s.cfg.R (s.sparse (sourceSide d) k))) s) := by
  rw [commandEffect, blockOf_block_toNat]

/-- A source list that is valid is all that `TRN` needs. -/
theorem exec_trn_of_valid {s : State} (hf : s.fault = false) {d : Direction} {k : Block}
    (hsrc : validSparse s.cfg.R (s.sparse (sourceSide d) k) = true) :
    exec (.trn d k.toNat) s = .next (complete (.trn d k.toNat) s) :=
  exec_of_firstFailure_none hf (by simp [ownChecks, hsrc])

theorem commandEffect_trn_sideMemory_other {d : Direction} {k : Block} (s : State) {sel' : Side} {k' : Block}
    (hne : ¬ (sel' = destinationSide d ∧ k' = k)) :
    (commandEffect (.trn d k.toNat) s).sideMemory sel' k' = s.sideMemory sel' k' := by
  rw [commandEffect_trn, State.sideMemory_congr (setMatrixValid_col ..) (setMatrixValid_row ..), setSide_sideMemory,
    if_neg hne]

theorem complete_trn_frame (d : Direction) (k : Block) (s : State) :
    { complete (.trn d k.toNat) s with col := s.col, row := s.row } =
      { s with mv := s.mv.set k true, host := s.host.tail, resp := some 0 } := by
  rw [complete_of_responseFields_zero rfl, commandEffect_trn]
  cases d <;> rfl

theorem complete_trn_fault (d : Direction) (k : Nat) (s : State) : (complete (.trn d k) s).fault = s.fault := by
  simp [complete, commandEffect]

/-- `TRN` from a valid list makes the block a valid matrix. -/
theorem commandEffect_trn_matrixOk {s : State} (hR : s.cfg.R < 2 ^ 24) {d : Direction} {k : Block}
    (hsrc : validSparse s.cfg.R (s.sparse (sourceSide d) k) = true) : (commandEffect (.trn d k.toNat) s).MatrixOk k := by
  rw [commandEffect_trn]
  exact (setSide_transpose_matrixOk hR d k hsrc).congr rfl rfl rfl

/-- The list that `TRN` derives is the transpose of its source. -/
theorem commandEffect_trn_sparse {s : State} (hR : s.cfg.R < 2 ^ 24) {d : Direction} {k : Block}
    (hsrc : validSparse s.cfg.R (s.sparse (sourceSide d) k) = true) :
    (commandEffect (.trn d k.toNat) s).sparse (destinationSide d) k =
      transpose s.cfg.R (s.sparse (sourceSide d) k) := by
  have hlt := ((validSparse_iff _ _).mp (validSparse_transpose hsrc)).2
  rw [commandEffect_trn, State.sparse_congr (setMatrixValid_cfg ..) (setMatrixValid_col ..) (setMatrixValid_row ..)]
  exact setSide_sparseMemory_sparse hR _ k (by simp) hlt

/-- On a valid matrix `TRN` writes the values that are there already. -/
theorem commandEffect_trn_of_matrixOk {s : State} {d : Direction} {k : Block} (hok : s.MatrixOk k)
    (hwf : (s.sideMemory (destinationSide d) k).wf s.cfg.W = true) :
    commandEffect (.trn d k.toNat) s = setMatrixValid k true s := by
  rw [commandEffect_trn, hok.transpose_source, sparseMemory_sparse hwf, setSide_sideMemory_self]

/-- On a valid matrix `TRN` sets the flag and answers, and that is all. -/
theorem exec_trn_of_matrixOk {s : State} (hf : s.fault = false) {d : Direction} {k : Block} (hok : s.MatrixOk k)
    (hwf : (s.sideMemory (destinationSide d) k).wf s.cfg.W = true) :
    exec (.trn d k.toNat) s = .next { s with mv := s.mv.set k true, host := s.host.tail, resp := some 0 } := by
  rw [exec_trn_of_valid hf (hok.source_valid d), complete_of_responseFields_zero rfl,
    commandEffect_trn_of_matrixOk hok hwf]
  rfl

/-- Settles O30: the checks in order, then the derived list is the transpose of its source. -/
theorem trnDerivesTranspose : Obligations.TrnDerivesTranspose := by
  intro s d k hf
  refine ⟨fun n hn => ?block, fun hsrc => ?sparse, fun hlegal hsrc => ?pass⟩
  case block => exact traps_of_firstFailure hf (e := .block) (by simp [ownChecks, hn])
  case sparse => exact traps_of_firstFailure hf (e := .sparse) (by simp [ownChecks, hsrc])
  case pass =>
    have hR : s.cfg.R < 2 ^ 24 := by have := legal_N_lt hlegal; omega
    have hdst : (complete (.trn d k.toNat) s).sparse (destinationSide d) k =
        transpose s.cfg.R (s.sparse (sourceSide d) k) := by
      rw [complete_sparse, commandEffect_trn_sparse hR hsrc]
    refine ⟨_, exec_trn_of_valid hf hsrc, ?valid, fun q => ?support, fun sel' k' hne => ?other,
      complete_trn_frame d k s, fun hinv hmv => ?unchanged⟩
    case valid => rw [hdst]; exact validSparse_transpose hsrc
    case support => simp only [hdst, mem_transpose hsrc, subMod_zero_left, eq_comm]
    case other => rw [complete_sideMemory, commandEffect_trn_sideMemory_other s hne]
    case unchanged =>
      rw [complete, commandEffect_trn_of_matrixOk (hinv.matrix k hmv) (hinv.memories.sideMemory _ k)]
      exact ⟨rfl, rfl⟩

/-- Settles O51: after `TRN F` the block is a valid matrix, on which `TRN B` writes the values that are there. -/
theorem transposeTwiceIsIdentity : Obligations.TransposeTwiceIsIdentity := by
  refine ⟨fun R P => transpose_transpose, fun s k hlegal hmem hf hsrc => ?_⟩
  have hR : s.cfg.R < 2 ^ 24 := by have := legal_N_lt hlegal; omega
  obtain ⟨t, ht⟩ : ∃ t, complete (.trn .forward k.toNat) s = t := ⟨_, rfl⟩
  have hfault : t.fault = false := by rw [← ht, complete_trn_fault, hf]
  have hcol : t.col = s.col := ht ▸ (commandEffect_col (.trn .forward k.toNat) s).resolve_right id
  have hok : t.MatrixOk k := ht ▸ (commandEffect_trn_matrixOk (d := .forward) hR hsrc).congr rfl rfl rfl
  have hwf : (t.sideMemory .columns k).wf t.cfg.W = true := by
    rw [State.sideMemory, hcol, ← ht, complete_cfg]
    exact hmem.col k
  exact ⟨t, _, ht ▸ exec_trn_of_valid (d := .forward) hf hsrc, exec_trn_of_matrixOk (d := .backward) hfault hok hwf,
    rfl, rfl, rfl, hcol⟩

end Sys2Proof.Machine

/-! # Error vector and syndrome (41_error_syndrome.md)

The commands that write and read the error vector and the syndrome, the product that carries the one into the other, and
the flip that updates both. -/

namespace Sys2Proof.Machine

open Sys2Proof

/-! ## The checks and the response of these commands -/

@[simp] theorem firstFailure_cons_needError (s : State) (cs : List Check) :
    firstFailure (needError s :: cs) = if s.ev then firstFailure cs else some .errvec := rfl

@[simp] theorem firstFailure_cons_needSyndrome (s : State) (cs : List Check) :
    firstFailure (needSyndrome s :: cs) = if s.sv then firstFailure cs else some .synd := rfl

@[simp] theorem firstFailure_cons_weightMatches (s : State) (cs : List Check) :
    firstFailure (weightMatches s :: cs) = if s.ew.toNat = s.cfg.T then firstFailure cs else some .weight := by
  simp [weightMatches]

/-- Responding writes no syndrome bit. -/
@[simp] theorem complete_synBit (i : Instr) (s : State) (j : Nat) :
    (complete i s).synBit j = (commandEffect i s).synBit j := rfl

theorem bitNum_eq_ite (b : Bool) : bitNum b = if b then 1 else 0 := by cases b <;> rfl

theorem bitNum_not (b : Bool) : bitNum (!b) = if b then 0 else 1 := by cases b <;> rfl

/-! ## Toggling a bit and its weight register -/

theorem xor_decide_eq_ite {p : Prop} [Decidable p] (b : Bool) : Bool.xor b (decide p) = if p then !b else b := by
  by_cases h : p <;> simp [h]

/-- The change of a weight when a bit toggles. -/
theorem ite_neg_one_one (b : Bool) : (if b then -1 else 1 : Int) = 1 - 2 * b.toNat := by cases b <;> rfl

/-- Adjusting a weight register for a toggled bit and for the bit toggled back. -/
theorem adjusted_adjusted (w : Reg24) (b : Bool) :
    (if !b then (if b then w - 1 else w + 1) - 1 else (if b then w - 1 else w + 1) + 1) = w := by
  cases b <;> simp

theorem Memory.toggle_toggle {n : Nat} {m : Memory Bool} (h : m.wf n = true) {i : Nat} (hi : i < n) :
    (m.toggle i).toggle i = m := by
  have h' := Memory.wf_toggle h hi
  refine Memory.ext_read (Memory.wf_toggle h' hi) h fun a _ => ?_
  rw [Memory.read_toggle h', Memory.read_toggle h, Bool.xor_assoc, Bool.xor_self, Bool.xor_false]

/-- Toggling an error bit, as R111 and R130 write it. -/
theorem toggleError_errBit_ite {s : State} {k : Block} (h : (s.err.get k).wf s.cfg.R = true) (j : Nat) (k' : Block)
    (j' : Nat) :
    (toggleError k j s).errBit k' j' = if k' = k ∧ j' = j then !s.errBit k j else s.errBit k' j' := by
  rw [toggleError_errBit h, xor_decide_eq_ite]
  split
  · next heq => rw [heq.1, heq.2]
  · rfl

/-- Toggling a syndrome bit, as R125 writes it. -/
theorem toggleSyndrome_synBit_ite {s : State} (h : s.syn.wf s.cfg.R = true) (j j' : Nat) :
    (toggleSyndrome j s).synBit j' = if j' = j then !s.synBit j else s.synBit j' := by
  rw [toggleSyndrome_synBit h, xor_decide_eq_ite]
  split
  · next heq => rw [heq]
  · rfl

/-- Toggling an error bit twice restores the error vector and its weight. -/
theorem toggleError_toggleError {s : State} {k : Block} {j : Nat} (h : (s.err.get k).wf s.cfg.R = true)
    (hj : j < s.cfg.R) : toggleError k j (toggleError k j s) = s := by
  have herr : ((toggleError k j s).err.set k (((toggleError k j s).err.get k).toggle j)) = s.err := by
    rw [toggleError_err, Blocks.get_set_same, Memory.toggle_toggle h hj, Blocks.set_set, Blocks.set_get]
  have hbit : (toggleError k j s).errBit k j = !s.errBit k j := by simp [toggleError_errBit_ite h]
  rw [toggleError, herr, hbit, toggleError_ew, adjusted_adjusted]
  rfl

/-- Under the invariant toggling an error bit moves the weight by one, and no register wraps. -/
theorem toggleError_ew_toNat {s : State} (h : s.Inv) (hev : s.ev = true) {k : Block} {j : Nat} (hj : j < s.cfg.R) :
    (toggleError k j s).ew.toNat + 2 * (s.errBit k j).toNat = s.ew.toNat + 1 := by
  rw [(toggleError_inv h k hj).errorWeight hev, h.errorWeight hev]
  exact toggleError_popcount (h.memories.err k) hj

/-! ## The error vector: `ECLR`, `ETOG`, `RDE`, `RDEW`, `EWCHK` (R110 to R114) -/

/-- Settles O32: no check can fail, and the cleared vector reads 0 everywhere. -/
theorem eclrClearsErrorVector : Obligations.EclrClearsErrorVector := by
  intro s hf
  refine ⟨_, exec_of_firstFailure_none hf rfl, fun k j => congrFun (clearError_errBit k s) j, ?_⟩
  rw [complete_of_responseFields_zero rfl]
  rfl

theorem commandEffect_etog (k : Block) (j : Nat) (s : State) :
    commandEffect (.etog k.toNat j) s = invalidateDerived (toggleError k j s) := by
  rw [commandEffect, blockOf_block_toNat]

theorem exec_etog_of_valid {s : State} (hf : s.fault = false) (k : Block) {j : Nat} (hj : j < s.cfg.R)
    (hev : s.ev = true) : exec (.etog k.toNat j) s = .next (complete (.etog k.toNat j) s) :=
  exec_of_firstFailure_none hf (by simp [ownChecks, hj, hev])

theorem commandEffect_etog_errBit {s : State} {k : Block} (h : (s.err.get k).wf s.cfg.R = true) (j : Nat) (k' : Block)
    (j' : Nat) :
    (commandEffect (.etog k.toNat j) s).errBit k' j' = if k' = k ∧ j' = j then !s.errBit k j else s.errBit k' j' := by
  rw [commandEffect_etog]
  exact toggleError_errBit_ite h j k' j'

theorem responseFields_etog {s : State} {k : Block} (h : (s.err.get k).wf s.cfg.R = true) (j : Nat) :
    responseFields (.etog k.toNat j) s =
      (0, if s.errBit k j then 0 else 1, if s.errBit k j then s.ew - 1 else s.ew + 1) := by
  rw [responseFields, blockOf_block_toNat, commandEffect_etog_errBit h, if_pos ⟨rfl, rfl⟩, bitNum_not,
    commandEffect_etog]
  rfl

theorem complete_etog_frame {s : State} {k : Block} (h : (s.err.get k).wf s.cfg.R = true) (j : Nat) :
    { complete (.etog k.toNat j) s with err := s.err } =
      { s with ew := if s.errBit k j then s.ew - 1 else s.ew + 1, sv := false, ctv := false,
               lv := ⟨false, false, false⟩, host := s.host.tail,
               resp := some (wordOf 0 0 (if s.errBit k j then 0 else 1)
                 (if s.errBit k j then s.ew - 1 else s.ew + 1)) } := by
  rw [complete, responseFields_etog h, commandEffect_etog]
  rfl

/-- `ETOG` twice restores the error vector and its weight. -/
theorem complete_etog_complete_etog {s : State} {k : Block} {j : Nat} (h : (s.err.get k).wf s.cfg.R = true)
    (hj : j < s.cfg.R) :
    (complete (.etog k.toNat j) (complete (.etog k.toNat j) s)).err = s.err ∧
      (complete (.etog k.toNat j) (complete (.etog k.toNat j) s)).ew = s.ew := by
  have htwice := toggleError_toggleError h hj
  have herr : (toggleError k j (toggleError k j s)).err = s.err := congrArg State.err htwice
  have hew : (toggleError k j (toggleError k j s)).ew = s.ew := congrArg State.ew htwice
  simp only [complete, commandEffect_etog]
  exact ⟨herr, hew⟩

theorem complete_etog_fault_ev (k : Block) (j : Nat) (s : State) :
    (complete (.etog k.toNat j) s).fault = s.fault ∧ (complete (.etog k.toNat j) s).ev = s.ev := by
  rw [complete, commandEffect_etog]
  exact ⟨rfl, rfl⟩

/-- Settles O33: the checks in order, then one toggled bit; toggling it back restores vector and weight, and the
invariant bounds the weight. -/
theorem etogTogglesErrorBit : Obligations.EtogTogglesErrorBit := by
  intro s k j hf
  refine ⟨fun n hn => ?block, fun hj => ?range, fun hj hev => ?errvec, fun hmem hj hev => ?pass,
    fun hinv hj hev t ht => ?bound⟩
  case block => exact traps_of_firstFailure hf (e := .block) (by simp [ownChecks, hn])
  case range => exact traps_of_firstFailure hf (e := .range) (by simp [ownChecks, hj.not_gt])
  case errvec => exact traps_of_firstFailure hf (e := .errvec) (by simp [ownChecks, hj, hev])
  case pass =>
    obtain ⟨hfault, hvalid⟩ := complete_etog_fault_ev k j s
    have hagain := exec_etog_of_valid (s := complete (.etog k.toNat j) s) (hfault.trans hf) k
      ((complete_cfg _ s).symm ▸ hj) (hvalid.trans hev)
    exact ⟨_, exec_etog_of_valid hf k hj hev, commandEffect_etog_errBit (hmem.err k) j,
      complete_etog_frame (hmem.err k) j, _, hagain, complete_etog_complete_etog (hmem.err k) hj⟩
  case bound =>
    obtain rfl := Host.Outcome.next.inj ((exec_etog_of_valid hf k hj hev).symm.trans ht)
    have hweight := (exec_inv hinv ht).errorWeight ((complete_etog_fault_ev k j s).2.trans hev)
    rw [complete_cfg] at hweight
    have h0 := popcount_le s.cfg.R ((complete (.etog k.toNat j) s).errBit .b0)
    have h1 := popcount_le s.cfg.R ((complete (.etog k.toNat j) s).errBit .b1)
    omega

/-- Settles O34: the checks in order, then the answers of two commands that only read. -/
theorem rdeRdewReadErrorVector : Obligations.RdeRdewReadErrorVector := by
  intro s k j hf
  refine ⟨fun n hn => ?block, fun hj => ?range, fun hj hev => ?errvec, fun hj hev => ?bit, fun hev => ?errvecWeight,
    fun hev => ?weight⟩
  case block => exact traps_of_firstFailure hf (e := .block) (by simp [ownChecks, hn])
  case range => exact traps_of_firstFailure hf (e := .range) (by simp [ownChecks, hj.not_gt])
  case errvec => exact traps_of_firstFailure hf (e := .errvec) (by simp [ownChecks, hj, hev])
  case bit =>
    rw [exec_of_firstFailure_none hf (by simp [ownChecks, hj, hev]), complete_of_readsOnly rfl]
    simp [responseFields, bitNum_eq_ite]
  case errvecWeight => exact traps_of_firstFailure hf (e := .errvec) (by simp [ownChecks, hev])
  case weight =>
    rw [exec_of_firstFailure_none hf (by simp [ownChecks, hev]), complete_of_readsOnly rfl]
    rfl

/-- Settles O35: the flag is checked before the weight, and a command that passes both answers `EW`. -/
theorem ewchkChecksWeight : Obligations.EwchkChecksWeight := by
  intro s hf
  refine ⟨fun hev => ?errvec, fun hev hT => ?weight, fun hev hT => ?pass⟩
  case errvec => exact traps_of_firstFailure hf (e := .errvec) (by simp [ownChecks, hev])
  case weight => exact traps_of_firstFailure hf (e := .weight) (by simp [ownChecks, hev, hT])
  case pass => exact exec_of_firstFailure_none hf (by simp [ownChecks, hev, hT])

/-! ## The syndrome bit by bit: `SCLR`, `STOG`, `RDSY`, `RDSW` (R120, R125 to R127) -/

/-- Settles O36: no check can fail, and the empty memory reads 0 everywhere. -/
theorem sclrZeroesSyndrome : Obligations.SclrZeroesSyndrome := by
  intro s hf
  refine ⟨_, exec_of_firstFailure_none hf rfl, fun j => rfl, ?_⟩
  rw [complete_of_responseFields_zero rfl]
  rfl

theorem responseFields_stog {s : State} (h : s.syn.wf s.cfg.R = true) (j : Nat) :
    responseFields (.stog j) s = (0, if s.synBit j then 0 else 1, if s.synBit j then s.sw - 1 else s.sw + 1) := by
  rw [responseFields, commandEffect, toggleSyndrome_synBit_ite h, if_pos rfl, bitNum_not, toggleSyndrome_sw]

/-- Settles O41: the two checks in order, then one toggled bit and its answer. -/
theorem stogTogglesSyndromeBit : Obligations.StogTogglesSyndromeBit := by
  intro s j hf
  refine ⟨fun hj => ?range, fun hj hsv => ?synd, fun hmem hj hsv => ?pass⟩
  case range => exact traps_of_firstFailure hf (e := .range) (by simp [ownChecks, hj.not_gt])
  case synd => exact traps_of_firstFailure hf (e := .synd) (by simp [ownChecks, hj, hsv])
  case pass =>
    refine ⟨_, exec_of_firstFailure_none hf (by simp [ownChecks, hj, hsv]), toggleSyndrome_synBit_ite hmem.syn j, ?_⟩
    rw [complete, responseFields_stog hmem.syn]
    rfl

/-- Settles O42: the checks in order, then the answers of two commands that only read. -/
theorem rdsyRdswReadSyndrome : Obligations.RdsyRdswReadSyndrome := by
  intro s j hf
  refine ⟨fun hj => ?range, fun hj hsv => ?synd, fun hj hsv => ?bit, fun hsv => ?syndWeight, fun hsv => ?weight⟩
  case range => exact traps_of_firstFailure hf (e := .range) (by simp [ownChecks, hj.not_gt])
  case synd => exact traps_of_firstFailure hf (e := .synd) (by simp [ownChecks, hj, hsv])
  case bit =>
    rw [exec_of_firstFailure_none hf (by simp [ownChecks, hj, hsv]), complete_of_readsOnly rfl]
    simp [responseFields, bitNum_eq_ite]
  case syndWeight => exact traps_of_firstFailure hf (e := .synd) (by simp [ownChecks, hsv])
  case weight =>
    rw [exec_of_firstFailure_none hf (by simp [ownChecks, hsv]), complete_of_readsOnly rfl]
    rfl

/-! ## Products of circulants and vectors (00_scope.md R17; 41_error_syndrome.md section 2) -/

/-- `-(b - a) = a - b` modulo `R`. -/
theorem subMod_zero_subMod {R a b : Nat} (ha : a < R) (hb : b < R) : subMod R 0 (subMod R b a) = subMod R a b := by
  have hR : 0 < R := by omega
  rw [subMod_eq_iff hR (subMod_lt hR b a) (subMod_lt hR a b), subMod, subMod, ← Nat.add_mod,
    show b + R - a + (a + R - b) = R * 2 by omega, Nat.mul_mod_right]

/-- The circulant of the transpose is the transposed circulant (00_scope.md R16). -/
theorem Hbit_transpose {R : Nat} {P : List Nat} (h : validSparse R P = true) {a b : Nat} (ha : a < R) (hb : b < R) :
    Hbit R (transpose R P) b a = Hbit R P a b := by
  rw [Bool.eq_iff_iff, Hbit, Hbit, List.contains_iff_mem, List.contains_iff_mem,
    mem_transpose_iff_subMod_mem h (subMod_lt (by omega) b a), subMod_zero_subMod ha hb]

/-- The XOR of a list of bits is the parity of how many hold. -/
theorem xorAll_map_eq_parity {α : Type} (xs : List α) (f : α → Bool) :
    xorAll (xs.map f) = decide (xs.countP f % 2 = 1) := by
  rw [xorAll_eq_parity, List.map_map, ← sum_map_toNat]
  rfl

/-- Gathering over the row list is one row of the circulant times the vector: the integer sum over the row list counts
the ones of that row, and the product is its parity. -/
theorem mulx_transpose {R : Nat} {P : List Nat} (h : validSparse R P = true) (e : Nat → Bool) {a : Nat} (ha : a < R) :
    mulx R (transpose R P) e a = rowTimes R P e a := by
  have hcount : muladd R (transpose R P) e a = (List.range R).countP fun b => Hbit R P a b && e b := by
    rw [← counterOf_eq_muladd (validSparse_transpose h) e ha]
    exact List.countP_congr fun b hb => by rw [Hbit_transpose h ha (List.mem_range.mp hb)]
  rw [mulx_eq_parity_muladd, hcount, rowTimes, xorAll_map_eq_parity]

theorem mulx_xor (R : Nat) (X : List Nat) (Y Z : Nat → Bool) (j : Nat) :
    mulx R X (fun a => Bool.xor (Y a) (Z a)) j = Bool.xor (mulx R X Y j) (mulx R X Z j) :=
  xorAll_map_xor X (fun x => window R Y x j) fun x => window R Z x j

/-- The weight of an XOR is at most the sum of the weights. -/
theorem popcount_xor_le (R : Nat) (V U : Nat → Bool) :
    popcount R (fun j => Bool.xor (V j) (U j)) ≤ popcount R V + popcount R U := by
  induction R with
  | zero => simp [popcount]
  | succ R ih =>
    have hbit : (Bool.xor (V R) (U R)).toNat ≤ (V R).toNat + (U R).toNat := by cases V R <;> cases U R <;> decide
    simp only [popcount_succ]
    omega

/-! ## Loading the syndrome (R122, R123) -/

/-- Loading looks at the new syndrome below `R` alone. -/
theorem loadSyndrome_congr {V U : Nat → Bool} {s : State} (h : ∀ j, j < s.cfg.R → V j = U j) :
    loadSyndrome V s = loadSyndrome U s := by
  rw [loadSyndrome, loadSyndrome, Memory.ofFn_congr h, popcount_congr h]

/-- Loading the syndrome that is there changes nothing. -/
theorem loadSyndrome_synBit_self {s : State} (h : s.Inv) (hsv : s.sv = true) : loadSyndrome s.synBit s = s := by
  have hsyn : Memory.ofFn s.cfg.R s.synBit = s.syn :=
    Memory.ext_read (Memory.wf_ofFn _ _) h.memories.syn fun j hj => by rw [Memory.read_ofFn, if_pos hj]; rfl
  have hsw : num (popcount s.cfg.R s.synBit) = s.sw := by
    rw [← h.syndromeWeight hsv, num, BitVec.ofNat_toNat, BitVec.setWidth_eq]
  rw [loadSyndrome, hsyn, hsw]

theorem State.sparse_rows_congr {s t : State} (hcfg : t.cfg = s.cfg) (hrow : t.row = s.row) (k : Block) :
    t.sparse .rows k = s.sparse .rows k := by
  simp [State.sparse, State.sideMemory, hcfg, hrow]

/-- Two states in which the accumulations form the same products and check the same flags, `SV` aside. -/
structure SameOperands (s t : State) : Prop where
  cfg : t.cfg = s.cfg
  mv : t.mv = s.mv
  ev : t.ev = s.ev
  fault : t.fault = s.fault
  row : t.row = s.row
  err : t.err = s.err

theorem SameOperands.trans {s t u : State} (h : SameOperands s t) (h' : SameOperands t u) : SameOperands s u :=
  ⟨h'.cfg.trans h.cfg, h'.mv.trans h.mv, h'.ev.trans h.ev, h'.fault.trans h.fault, h'.row.trans h.row,
    h'.err.trans h.err⟩

theorem SameOperands.blockProduct {s t : State} (h : SameOperands s t) (k : Block) (j : Nat) :
    blockProduct k t j = blockProduct k s j := by
  have herr : t.errBit k = s.errBit k := funext (State.errBit_congr h.err k)
  rw [Machine.blockProduct, Machine.blockProduct, h.cfg, State.sparse_rows_congr h.cfg h.row, herr]

/-! ## Accumulating one block, `XACC` (R122) -/

/-- The syndrome that `XACC k` loads. -/
def accumulated (k : Block) (s : State) (j : Nat) : Bool := Bool.xor (s.synBit j) (blockProduct k s j)

theorem commandEffect_xacc (k : Block) (s : State) :
    commandEffect (.xacc k.toNat) s = clearSnapshot (loadSyndrome (accumulated k s) s) := by
  rw [commandEffect, blockOf_block_toNat]
  rfl

theorem exec_xacc_of_valid {s : State} (hf : s.fault = false) {k : Block} (hmv : s.mv.get k = true) (hev : s.ev = true)
    (hsv : s.sv = true) : exec (.xacc k.toNat) s = .next (complete (.xacc k.toNat) s) :=
  exec_of_firstFailure_none hf (by simp [ownChecks, hmv, hev, hsv])

theorem complete_xacc_synBit (k : Block) {s : State} {j : Nat} (hj : j < s.cfg.R) :
    (complete (.xacc k.toNat) s).synBit j = accumulated k s j := by
  rw [complete_synBit, commandEffect_xacc]
  exact (loadSyndrome_synBit _ s j).trans (if_pos hj)

theorem complete_xacc_weight (k : Block) {s : State} (h : s.cfg.legal) :
    (complete (.xacc k.toNat) s).sw.toNat = popcount s.cfg.R (complete (.xacc k.toNat) s).synBit := by
  rw [complete, commandEffect_xacc]
  exact loadSyndrome_weight h _

theorem complete_xacc_frame (k : Block) (s : State) :
    { complete (.xacc k.toNat) s with syn := s.syn, sw := s.sw } =
      { s with ctv := false, lv := ⟨false, false, false⟩, host := s.host.tail,
               resp := some (wordOf 0 0 0 (complete (.xacc k.toNat) s).sw) } := by
  rw [complete, responseFields, commandEffect_xacc]
  rfl

theorem complete_xacc_sameOperands (k : Block) (s : State) : SameOperands s (complete (.xacc k.toNat) s) := by
  rw [complete, commandEffect_xacc]
  exact ⟨rfl, rfl, rfl, rfl, rfl, rfl⟩

theorem complete_xacc_sv (k : Block) (s : State) : (complete (.xacc k.toNat) s).sv = s.sv := by
  rw [complete, commandEffect_xacc]
  rfl

/-- `XACC` by any description of the syndrome that it loads. -/
theorem complete_xacc_of_accumulated {k : Block} {s : State} {V : Nat → Bool}
    (h : ∀ j, j < s.cfg.R → accumulated k s j = V j) :
    complete (.xacc k.toNat) s = respond 0 0 (loadSyndrome V s).sw (clearSnapshot (loadSyndrome V s)) := by
  rw [complete, responseFields, commandEffect_xacc, loadSyndrome_congr h]
  rfl

/-- Accumulating the same block again cancels it. -/
theorem accumulated_complete_xacc (k : Block) {s : State} {j : Nat} (hj : j < s.cfg.R) :
    accumulated k (complete (.xacc k.toNat) s) j = s.synBit j := by
  rw [accumulated, complete_xacc_synBit k hj, (complete_xacc_sameOperands k s).blockProduct, accumulated,
    Bool.xor_assoc, Bool.xor_self, Bool.xor_false]

/-- `XACC` twice restores the syndrome and its weight. -/
theorem complete_xacc_complete_xacc {s : State} (h : s.Inv) (hsv : s.sv = true) (k : Block) :
    (complete (.xacc k.toNat) (complete (.xacc k.toNat) s)).syn = s.syn ∧
      (complete (.xacc k.toNat) (complete (.xacc k.toNat) s)).sw = s.sw := by
  have hself := loadSyndrome_synBit_self h hsv
  have hsyn : (loadSyndrome s.synBit s).syn = s.syn := congrArg State.syn hself
  have hsw : (loadSyndrome s.synBit s).sw = s.sw := congrArg State.sw hself
  rw [complete_xacc_of_accumulated fun j hj => accumulated_complete_xacc k (complete_cfg _ s ▸ hj)]
  exact ⟨hsyn, hsw⟩

/-- Settles O37: the checks in order, then the loaded syndrome; the second product cancels the first. -/
theorem xaccAccumulatesBlock : Obligations.XaccAccumulatesBlock := by
  intro s k hf
  refine ⟨fun n hn => ?block, fun hmv => ?matrix, fun hmv hev => ?errvec, fun hmv hev hsv => ?synd,
    fun hlegal hmv hev hsv => ?pass, fun hinv hmv hev hsv => ?twice⟩
  case block => exact traps_of_firstFailure hf (e := .block) (by simp [ownChecks, hn])
  case matrix => exact traps_of_firstFailure hf (e := .matrix) (by simp [ownChecks, hmv])
  case errvec => exact traps_of_firstFailure hf (e := .errvec) (by simp [ownChecks, hmv, hev])
  case synd => exact traps_of_firstFailure hf (e := .synd) (by simp [ownChecks, hmv, hev, hsv])
  case pass =>
    exact ⟨_, exec_xacc_of_valid hf hmv hev hsv, fun j => complete_xacc_synBit k, complete_xacc_weight k hlegal,
      complete_xacc_frame k s⟩
  case twice =>
    have hsame := complete_xacc_sameOperands k s
    exact ⟨_, _, exec_xacc_of_valid hf hmv hev hsv,
      exec_xacc_of_valid (hsame.fault.trans hf) (hsame.mv ▸ hmv) (hsame.ev.trans hev)
        ((complete_xacc_sv k s).trans hsv),
      complete_xacc_complete_xacc hinv hsv k⟩

/-! ## The syndrome of both blocks, `SYN` (R123, R124) -/

/-- The syndrome that `SYN` loads. -/
def productSum (s : State) (j : Nat) : Bool := Bool.xor (blockProduct .b0 s j) (blockProduct .b1 s j)

theorem exec_syn_of_valid {s : State} (hf : s.fault = false) (h0 : s.mv.b0 = true) (h1 : s.mv.b1 = true)
    (hev : s.ev = true) : exec .syn s = .next (complete .syn s) :=
  exec_of_firstFailure_none hf (by simp [ownChecks, Blocks.get, h0, h1, hev])

theorem complete_syn (s : State) :
    complete .syn s = respond 0 0 (loadSyndrome (productSum s) s).sw
      (clearSnapshot (setSyndromeValid (loadSyndrome (productSum s) s))) := rfl

theorem complete_syn_synBit (s : State) (j : Nat) :
    (complete .syn s).synBit j = if j < s.cfg.R then productSum s j else false :=
  loadSyndrome_synBit (productSum s) s j

theorem complete_syn_weight {s : State} (h : s.cfg.legal) :
    (complete .syn s).sw.toNat = popcount s.cfg.R (complete .syn s).synBit :=
  loadSyndrome_weight h (productSum s)

/-- With a matrix as its flag says, the product over the row list is `H_k` times the error vector. -/
theorem State.MatrixOk.blockProduct {s : State} {k : Block} (h : s.MatrixOk k) {a : Nat} (ha : a < s.cfg.R) :
    blockProduct k s a = rowTimes s.cfg.R (s.sparse .columns k) (s.errBit k) a := by
  rw [Machine.blockProduct, h.dual, mulx_transpose h.columns _ ha]

/-- Settles O38: the checks in order, then the loaded syndrome, row by row of `H`. -/
theorem synComputesSyndrome : Obligations.SynComputesSyndrome := by
  intro s hf
  refine ⟨fun hmv => ?matrix, fun h0 h1 hev => ?errvec, fun hlegal h0 h1 hev => ?pass⟩
  case matrix =>
    refine traps_of_firstFailure hf (e := .matrix) ?_
    rcases hmv with h0 | h1
    · simp [ownChecks, Blocks.get, h0]
    · simp [ownChecks, Blocks.get, h1]
  case errvec => exact traps_of_firstFailure hf (e := .errvec) (by simp [ownChecks, Blocks.get, h0, h1, hev])
  case pass =>
    have hbit : ∀ j, j < s.cfg.R → (complete .syn s).synBit j = productSum s j := fun j hj =>
      (complete_syn_synBit s j).trans (if_pos hj)
    refine ⟨_, exec_syn_of_valid hf h0 h1 hev, hbit, fun hok0 hok1 a ha => ?_, complete_syn_weight hlegal, rfl⟩
    rw [hbit a ha, productSum, hok0.blockProduct ha, hok1.blockProduct ha]
    rfl

theorem complete_sclr_sameOperands (s : State) : SameOperands s (complete .sclr s) :=
  ⟨rfl, rfl, rfl, rfl, rfl, rfl⟩

/-- Loading a syndrome discards what an accumulation before it has loaded. -/
theorem loadSyndrome_complete_xacc_sck (k : Block) (V : Nat → Bool) (s : State) :
    (clearSnapshot (loadSyndrome V (complete (.xacc k.toNat) s))).sck = (clearSnapshot (loadSyndrome V s)).sck := by
  rw [complete, commandEffect_xacc]
  rfl

/-- Loading a syndrome after `SCLR` sets `SV` and the snapshot flags as `SYN` does. -/
theorem loadSyndrome_complete_sclr_sck (V : Nat → Bool) (s : State) :
    (clearSnapshot (loadSyndrome V (complete .sclr s))).sck =
      (clearSnapshot (setSyndromeValid (loadSyndrome V s))).sck := rfl

theorem respond_sck (sub : Byte) (a b : Reg24) (s : State) : (respond sub a b s).sck = s.sck := rfl

/-- From the zero syndrome, accumulating block 0 and then block 1 loads the sum of the products. -/
theorem accumulated_from_clear {s : State} {j : Nat} (hj : j < s.cfg.R) :
    accumulated .b1 (complete (.xacc Block.b0.toNat) (complete .sclr s)) j = productSum s j := by
  have hclear := complete_sclr_sameOperands s
  have hboth := hclear.trans (complete_xacc_sameOperands .b0 (complete .sclr s))
  have hzero : (complete .sclr s).synBit j = false := rfl
  rw [accumulated, complete_xacc_synBit .b0 (hclear.cfg.symm ▸ hj), accumulated, hzero, Bool.false_xor,
    hclear.blockProduct, hboth.blockProduct, productSum]

/-- Settles O39: the flags that the accumulations check are set, and the last one loads what `SYN` loads. -/
theorem synIsClearThenAccumulate : Obligations.SynIsClearThenAccumulate := by
  intro s hf h0 h1 hev
  have hclear := complete_sclr_sameOperands s
  have hboth := hclear.trans (complete_xacc_sameOperands .b0 (complete .sclr s))
  have hsv : (complete (.xacc Block.b0.toNat) (complete .sclr s)).sv = true := complete_xacc_sv .b0 _
  have hfirst := exec_xacc_of_valid (k := .b0) (hclear.fault.trans hf) (hclear.mv ▸ h0) (hclear.ev.trans hev) rfl
  have hsecond := exec_xacc_of_valid (k := .b1) (hboth.fault.trans hf) (hboth.mv ▸ h1) (hboth.ev.trans hev) hsv
  refine ⟨_, _, _, _, exec_syn_of_valid hf h0 h1 hev, exec_of_firstFailure_none hf rfl, hfirst, hsecond, ?_⟩
  rw [complete_xacc_of_accumulated fun j hj => accumulated_from_clear (hboth.cfg ▸ hj), complete_syn]
  refine ⟨?sck, ?resp⟩
  case sck => rw [respond_sck, respond_sck, loadSyndrome_complete_xacc_sck, loadSyndrome_complete_sclr_sck]
  case resp => rw [respond_resp, respond_resp, loadSyndrome_sw, loadSyndrome_sw, hboth.cfg]

/-- The product of a block is linear in the error vector (R124). -/
theorem blockProduct_xor {s1 s2 s3 : State} (hcfg2 : s2.cfg = s1.cfg) (hcfg3 : s3.cfg = s1.cfg)
    (hrow2 : s2.row = s1.row) (hrow3 : s3.row = s1.row) {k : Block}
    (herr : ∀ j, s3.errBit k j = Bool.xor (s1.errBit k j) (s2.errBit k j)) (j : Nat) :
    blockProduct k s3 j = Bool.xor (blockProduct k s1 j) (blockProduct k s2 j) := by
  rw [blockProduct, blockProduct, blockProduct, hcfg2, hcfg3, State.sparse_rows_congr hcfg2 hrow2,
    State.sparse_rows_congr hcfg3 hrow3, ← mulx_xor, funext herr]

/-- Settles O40: each block's product is linear, so is their XOR, and the weight of an XOR is subadditive. -/
theorem synIsLinear : Obligations.SynIsLinear := by
  intro s1 s2 s3 t1 t2 t3 hlegal hcfg2 hcfg3 hrow2 hrow3 herr hvalid hexec1 hexec2 hexec3
  have hcomplete : ∀ s ∈ [s1, s2, s3], exec .syn s = .next (complete .syn s) := fun s hs =>
    have ⟨hf, h0, h1, hev⟩ := hvalid s hs
    exec_syn_of_valid hf h0 h1 hev
  obtain rfl := Host.Outcome.next.inj ((hcomplete s1 (by simp)).symm.trans hexec1)
  obtain rfl := Host.Outcome.next.inj ((hcomplete s2 (by simp)).symm.trans hexec2)
  obtain rfl := Host.Outcome.next.inj ((hcomplete s3 (by simp)).symm.trans hexec3)
  have hsum : ∀ j, productSum s3 j = Bool.xor (productSum s1 j) (productSum s2 j) := fun j => by
    simp only [productSum, blockProduct_xor hcfg2 hcfg3 hrow2 hrow3 (herr _), Bool.xor_assoc, Bool.xor_left_comm]
  have hbit : ∀ j, (complete .syn s3).synBit j =
      Bool.xor ((complete .syn s1).synBit j) ((complete .syn s2).synBit j) := fun j => by
    rw [complete_syn_synBit, complete_syn_synBit, complete_syn_synBit, hcfg2, hcfg3, hsum]
    split <;> rfl
  refine ⟨hbit, ?_⟩
  rw [complete_syn_weight hlegal, complete_syn_weight (hcfg2.symm ▸ hlegal : s2.cfg.legal),
    complete_syn_weight (hcfg3.symm ▸ hlegal : s3.cfg.legal), hcfg2, hcfg3, funext hbit]
  exact popcount_xor_le _ _ _

/-! ## The flip (R130, R131) -/

/-- On a list without repetitions at most one term of the XOR holds. -/
theorem xorAll_map_decide_eq {is : List Nat} (h : is.Nodup) (a : Nat) :
    xorAll (is.map fun i => decide (a = i)) = decide (a ∈ is) := by
  induction is with
  | nil => rfl
  | cons i is ih =>
    obtain ⟨hi, his⟩ := List.nodup_cons.mp h
    rw [List.map_cons, xorAll_cons, ih his]
    by_cases heq : a = i
    · simp [heq, hi]
    · simp [heq]

theorem mem_columnPattern {R : Nat} {P : List Nat} {j a : Nat} :
    a ∈ columnPattern R P j ↔ ∃ p ∈ P, a = (j + p) % R := by
  simp [columnPattern, eq_comm]

/-- The checks of position `j` by the row list (R130). -/
theorem mem_columnPattern_iff_transpose {R : Nat} {P : List Nat} (h : validSparse R P = true) {j : Nat} (hj : j < R)
    {a : Nat} : a ∈ columnPattern R P j ↔ ∃ q ∈ transpose R P, a = subMod R j q := by
  have hlt := ((validSparse_iff R P).mp h).2
  rw [mem_columnPattern]
  constructor
  · rintro ⟨p, hp, rfl⟩
    exact ⟨_, (mem_transpose h _).mpr ⟨p, hp, rfl⟩, (subMod_subMod_zero hj (hlt p hp)).symm⟩
  · rintro ⟨q, hq, rfl⟩
    obtain ⟨p, hp, rfl⟩ := (mem_transpose h q).mp hq
    exact ⟨p, hp, subMod_subMod_zero hj (hlt p hp)⟩

/-- A flip of a valid matrix toggles the checks of its position and no other bit. -/
theorem flip_synBit_ite {s : State} (hsyn : s.syn.wf s.cfg.R = true) {k : Block}
    (hk : validSparse s.cfg.R (s.sparse .columns k) = true) {j : Nat} (hj : j < s.cfg.R) (a : Nat) :
    (flip k j s).synBit a =
      if ∃ p ∈ s.sparse .columns k, a = (j + p) % s.cfg.R then !s.synBit a else s.synBit a := by
  rw [flip_synBit (by omega) hsyn, xorAll_map_decide_eq (columnPattern_nodup hk hj), xor_decide_eq_ite]
  simp only [mem_columnPattern]

/-- Under the invariant the weight a flip leaves is exact. -/
theorem flip_sw_toNat {s : State} (h : s.Inv) {k : Block} (hk : s.mv.get k = true) (hsv : s.sv = true) {j : Nat}
    (hj : j < s.cfg.R) : (flip k j s).sw.toNat + 2 * exactCounter k j s = s.sw.toNat + s.cfg.W := by
  rw [(flip_inv h hk hj).syndromeWeight hsv, h.syndromeWeight hsv]
  exact flipSyndrome_popcount h.memories.syn (h.matrix k hk).columns hj

theorem complete_flip (k : Block) (j : Nat) (s : State) :
    complete (.flip k.toNat j) s = respond 0 (num (exactCounter k j s)) (flip k j s).sw (flip k j s) := by
  rw [complete, responseFields, commandEffect, blockOf_block_toNat]

/-- Settles O43: the checks in order, then the toggled bits of vector and syndrome, the weights under the invariant, and
the checks of a position by either list. -/
theorem flipUpdatesIncrementally : Obligations.FlipUpdatesIncrementally := by
  intro s k j hf
  refine ⟨fun n hn => ?block, fun hj => ?range, fun hj hmv => ?matrix, fun hj hmv hev => ?errvec,
    fun hj hmv hev hsv => ?synd, fun hinv hj hmv hev hsv => ?pass⟩
  case block => exact traps_of_firstFailure hf (e := .block) (by simp [ownChecks, hn])
  case range => exact traps_of_firstFailure hf (e := .range) (by simp [ownChecks, hj.not_gt])
  case matrix => exact traps_of_firstFailure hf (e := .matrix) (by simp [ownChecks, hj, hmv])
  case errvec => exact traps_of_firstFailure hf (e := .errvec) (by simp [ownChecks, hj, hmv, hev])
  case synd => exact traps_of_firstFailure hf (e := .synd) (by simp [ownChecks, hj, hmv, hev, hsv])
  case pass =>
    have hok := hinv.matrix k hmv
    have hexec : exec (.flip k.toNat j) s = .next (complete (.flip k.toNat j) s) :=
      exec_of_firstFailure_none hf (by simp [ownChecks, hj, hmv, hev, hsv])
    rw [complete_flip] at hexec
    refine ⟨_, exactCounter k j s, hexec, rfl, toggleError_errBit_ite (hinv.memories.err k) j,
      flip_synBit_ite hinv.memories.syn hok.columns hj, ?errorWeight, ?syndromeWeight, ⟨_, rfl, rfl⟩,
      columnPattern_nodup hok.columns hj, fun a => ?rows, rfl⟩
    case errorWeight =>
      have hew : (flip k j s).ew.toNat + 2 * (s.errBit k j).toNat = s.ew.toNat + 1 := toggleError_ew_toNat hinv hev hj
      rw [respond_ew, ite_neg_one_one]
      omega
    case syndromeWeight =>
      have hsw := flip_sw_toNat hinv hmv hsv hj
      rw [respond_sw]
      omega
    case rows =>
      rw [hok.dual]
      exact mem_columnPattern.symm.trans (mem_columnPattern_iff_transpose hok.columns hj)

end Sys2Proof.Machine

/-! # Counters (42_counters.md)

The command that rebuilds the snapshot of all counters, and the two that read one counter: exactly, or from the snapshot. -/

namespace Sys2Proof.Machine

open Sys2Proof

@[simp] theorem firstFailure_cons_needCounters (s : State) (cs : List Check) :
    firstFailure (needCounters s :: cs) = if s.ctv then firstFailure cs else some .ctr := rfl

/-! ## Rebuilding the snapshot, `CNT` (R140) -/

theorem complete_cnt_counter (k : Block) {j : Nat} {s : State} (hj : j < s.cfg.R) :
    (complete .cnt s).counter k j = exactCounter k j s :=
  rebuildCounters_counter k hj

theorem complete_cnt_frame (s : State) :
    { complete .cnt s with ctr := s.ctr } = { s with ctv := true, host := s.host.tail, resp := some 0 } := by
  rw [complete_of_responseFields_zero rfl]
  rfl

/-- Settles O44: the two matrix flags are checked before the syndrome's, then every counter is rebuilt. -/
theorem cntRebuildsSnapshot : Obligations.CntRebuildsSnapshot := by
  intro s hf
  refine ⟨fun hmv => ?matrix, fun h0 h1 hsv => ?synd, fun h0 h1 hsv => ?pass⟩
  case matrix =>
    refine traps_of_firstFailure hf (e := .matrix) ?_
    rcases hmv with h0 | h1
    · simp [ownChecks, Blocks.get, h0]
    · simp [ownChecks, Blocks.get, h1]
  case synd => exact traps_of_firstFailure hf (e := .synd) (by simp [ownChecks, Blocks.get, h0, h1, hsv])
  case pass =>
    exact ⟨_, exec_of_firstFailure_none hf (by simp [ownChecks, Blocks.get, h0, h1, hsv]),
      fun k j hj => complete_cnt_counter k hj, complete_cnt_frame s⟩

/-! ## One counter, exact or stored: `GETC`, `RDC` (R142, R143) -/

/-- A counter is at most `W`, so under legal parameters it fits the 24 bits of a response field (00_scope.md R12). -/
theorem toNat_num_of_le_W {s : State} (h : s.cfg.legal) {c : Nat} (hc : c ≤ s.cfg.W) : (num c).toNat = c := by
  have hN := legal_N_lt h
  obtain ⟨-, hWR, -⟩ := h
  exact toNat_num (by omega)

/-- With a matrix as its flag says, the sum over the column list counts the rows of R17. -/
theorem State.MatrixOk.exactCounter {s : State} {k : Block} (h : s.MatrixOk k) {j : Nat} (hj : j < s.cfg.R) :
    exactCounter k j s = counterOf s.cfg.R (s.sparse .columns k) j s.synBit :=
  (counterOf_eq_muladd h.columns s.synBit hj).symm

theorem complete_getc (k : Block) (j : Nat) (s : State) :
    complete (.getc k.toNat j) s = s.answering 0 0 (num (exactCounter k j s)) := by
  rw [complete_of_readsOnly rfl, responseFields, blockOf_block_toNat]

theorem complete_rdc (k : Block) (j : Nat) (s : State) :
    complete (.rdc k.toNat j) s = s.answering 0 0 (num (s.counter k j)) := by
  rw [complete_of_readsOnly rfl, responseFields, blockOf_block_toNat]

/-- Settles O45: the checks in order, then the exact counter, which `FLIP` forms before its first write. -/
theorem getcReadsExactCounter : Obligations.GetcReadsExactCounter := by
  intro s k j hf
  refine ⟨fun n hn => ?block, fun hj => ?range, fun hj hmv => ?matrix, fun hj hmv hsv => ?synd,
    fun hlegal hok hj hmv hsv => ⟨num (exactCounter k j s), ?answer, ?value, fun hev => ?flip⟩⟩
  case block => exact traps_of_firstFailure hf (e := .block) (by simp [ownChecks, hn])
  case range => exact traps_of_firstFailure hf (e := .range) (by simp [ownChecks, hj.not_gt])
  case matrix => exact traps_of_firstFailure hf (e := .matrix) (by simp [ownChecks, hj, hmv])
  case synd => exact traps_of_firstFailure hf (e := .synd) (by simp [ownChecks, hj, hmv, hsv])
  case answer => rw [exec_of_firstFailure_none hf (by simp [ownChecks, hj, hmv, hsv]), complete_getc]
  case value => rw [toNat_num_of_le_W hlegal (exactCounter_le k j s), hok.exactCounter hj]
  case flip =>
    refine ⟨_, (flip k j s).sw, exec_of_firstFailure_none hf (by simp [ownChecks, hj, hmv, hev, hsv]), ?_⟩
    rw [complete_flip]
    rfl

/-- Settles O46: the checks in order, then the stored counter, which the invariant bounds by `W`. -/
theorem rdcReadsSnapshot : Obligations.RdcReadsSnapshot := by
  intro s k j hf
  refine ⟨fun n hn => ?block, fun hj => ?range, fun hj hctv => ?ctr,
    fun hinv hj hctv => ⟨num (s.counter k j), ?answer, ?value⟩⟩
  case block => exact traps_of_firstFailure hf (e := .block) (by simp [ownChecks, hn])
  case range => exact traps_of_firstFailure hf (e := .range) (by simp [ownChecks, hj.not_gt])
  case ctr => exact traps_of_firstFailure hf (e := .ctr) (by simp [ownChecks, hj, hctv])
  case answer => rw [exec_of_firstFailure_none hf (by simp [ownChecks, hj, hctv]), complete_rdc]
  case value =>
    obtain ⟨hle, -⟩ := hinv.counters hctv
    exact toNat_num_of_le_W hinv.parameters (hle k j hj)

end Sys2Proof.Machine

/-! # Ranking (43_ranking.md)

The two commands that write a list from the snapshot, the one that flips a list's positions, and the two that read a
list. -/

namespace Sys2Proof.Machine

open Sys2Proof

/-! ## The checks of these commands, and the list they name -/

@[simp] theorem firstFailure_cons_legalList_of_le {n : Nat} (h : 3 ≤ n) (cs : List Check) :
    firstFailure (legalList n :: cs) = some .listid := by
  simp [legalList, Config.NLIST, h.not_gt]

@[simp] theorem firstFailure_cons_legalList_toNat (L : ListId) (cs : List Check) :
    firstFailure (legalList L.toNat :: cs) = firstFailure cs := by
  cases L <;> rfl

@[simp] theorem firstFailure_cons_atMost (x bound : Nat) (cs : List Check) :
    firstFailure (atMost x bound :: cs) = if x ≤ bound then firstFailure cs else some .range := by
  simp [atMost]

@[simp] theorem firstFailure_cons_needList (L : ListId) (s : State) (cs : List Check) :
    firstFailure (needList L s :: cs) = if s.lv.get L then firstFailure cs else some .list := rfl

@[simp] theorem listOf_list_toNat (L : ListId) : listOf L.toNat = L := by cases L <;> rfl

/-! ## Reading a list: `RDL`, `RDLN` (R154, R155) -/

theorem complete_rdl (L : ListId) (n : Nat) (s : State) :
    complete (.rdl L.toNat n) s =
      s.answering (BitVec.ofNat 8 (s.entry L n).k.toNat) (s.entry L n).j (num (s.entry L n).c) := by
  rw [complete_of_readsOnly rfl, responseFields, listOf_list_toNat]

theorem complete_rdln (L : ListId) (s : State) : complete (.rdln L.toNat) s = s.answering 0 0 (s.llen.get L) := by
  rw [complete_of_readsOnly rfl, responseFields, listOf_list_toNat]

theorem entry_mem_entries {s : State} {L : ListId} {n : Nat} (h : n < (s.llen.get L).toNat) :
    s.entry L n ∈ s.entries L :=
  List.mem_map.mpr ⟨n, List.mem_range.mpr h, rfl⟩

/-- Settles O50: the checks in order, the index last, then the answers of two commands that only read; the invariant
bounds the counter of an entry by `W`. -/
theorem rdlRdlnReadList : Obligations.RdlRdlnReadList := by
  intro s L n hf
  refine ⟨fun m hm => ⟨?rdlListid, ?rdlnListid⟩, fun hlv => ⟨?rdlList, ?rdlnList⟩, fun hlv hn => ?range,
    fun hinv hlv hn => ⟨s.entry L n, num (s.entry L n).c, rfl, ?counter, ?entry⟩, fun hlv => ?length⟩
  case rdlListid => exact traps_of_firstFailure hf (e := .listid) (by simp [ownChecks, hm])
  case rdlnListid => exact traps_of_firstFailure hf (e := .listid) (by simp [ownChecks, hm])
  case rdlList => exact traps_of_firstFailure hf (e := .list) (by simp [ownChecks, hlv])
  case rdlnList => exact traps_of_firstFailure hf (e := .list) (by simp [ownChecks, hlv])
  case range => exact traps_of_firstFailure hf (e := .range) (by simp [ownChecks, hlv, hn.not_gt])
  case counter =>
    obtain ⟨-, hc⟩ := (hinv.lists L hlv).inRange _ (entry_mem_entries hn)
    exact toNat_num_of_le_W hinv.parameters hc
  case entry => rw [exec_of_firstFailure_none hf (by simp [ownChecks, hlv, hn]), complete_rdl]
  case length => rw [exec_of_firstFailure_none hf (by simp [ownChecks, hlv]), complete_rdln]

/-! ## Writing a list (R151, R152) -/

/-- `t` is `s` after a command that has written the selection `es` to list `L` and answered its length: the entries beyond
it and the other lists keep their contents. -/
structure WritesSelection (s : State) (L : ListId) (es : List Entry) (t : State) : Prop where
  entries : t.entries L = es
  beyond : ∀ n, es.length ≤ n → t.entry L n = s.entry L n
  others : ∀ L', L' ≠ L → t.list.get L' = s.list.get L'
  frame : { t with list := s.list } =
    { s with llen := s.llen.set L (num es.length), lv := s.lv.set L true, host := s.host.tail,
             resp := some (wordOf 0 0 0 (num es.length)) }

theorem respond_writeList_writesSelection {s : State} (hlegal : s.cfg.legal) (hmem : s.MemoriesWf) (L : ListId)
    {es : List Entry} (hlen : es.length ≤ s.cfg.N) :
    WritesSelection s L es (respond 0 0 (num es.length) (writeList L es s)) where
  entries := by
    have hN := legal_N_lt hlegal
    rw [params_N_eq] at hlen
    exact (State.entries_congr rfl rfl).trans (writeList_entries (hmem.list L) hlen (by omega))
  beyond _ hn := writeList_entry_beyond (hmem.list L) hlen hn
  others _ hne := Lists.get_set_ne _ _ hne
  frame := rfl

theorem scan_eq_flatMap (s : State) : scan s = [Block.b0, Block.b1].flatMap fun k => scanBlock k s := by
  simp [scan]

@[simp] theorem scan_length (s : State) : (scan s).length = s.cfg.N := by
  simp [scan, scanBlock, params_N_eq, Nat.two_mul]

/-! ## Selecting by counter, `SELR` (R150, R151) -/

theorem selected_length_le (lo hi : Nat) (s : State) : (selected lo hi s).length ≤ s.cfg.N :=
  (List.length_filter_le _ _).trans (scan_length s).le

theorem complete_selr (L : ListId) (lo hi : Nat) (s : State) :
    complete (.selr L.toNat lo hi) s =
      respond 0 0 (num (selected lo hi s).length) (writeList L (selected lo hi s) s) := by
  rw [complete, responseFields, commandEffect, listOf_list_toNat]

/-- Settles O47: the checks in order, then the scan filtered by the counter is written to the list. -/
theorem selrSelectsByCounter : Obligations.SelrSelectsByCounter := by
  intro s L lo hi hf
  refine ⟨fun n hn => ?listid, fun hctv => ?ctr, fun hlegal hmem hctv => ?pass⟩
  case listid => exact traps_of_firstFailure hf (e := .listid) (by simp [ownChecks, hn])
  case ctr => exact traps_of_firstFailure hf (e := .ctr) (by simp [ownChecks, hctv])
  case pass =>
    have hexec : exec (.selr L.toNat lo hi) s = .next (complete (.selr L.toNat lo hi) s) :=
      exec_of_firstFailure_none hf (by simp [ownChecks, hctv])
    rw [complete_selr] at hexec
    have hwrites := respond_writeList_writesSelection hlegal hmem L (selected_length_le lo hi s)
    refine ⟨_, selected lo hi s, hexec, ?_, hwrites.entries, hwrites.beyond, hwrites.others, hwrites.frame⟩
    simp only [selected, scan_eq_flatMap, scanBlock, num, Bool.decide_and]

/-! ## The order of `TOPK` (R152) -/

theorem ranksBefore_iff {R : Nat} {e f : Entry} : ranksBefore R e f = true ↔
    f.c < e.c ∨ (e.c = f.c ∧ linearIndex R e.k e.j.toNat < linearIndex R f.k f.j.toNat) := by
  simp [ranksBefore]

theorem ranksBefore_trans {R : Nat} {e f g : Entry} (hef : ranksBefore R e f = true) (hfg : ranksBefore R f g = true) :
    ranksBefore R e g = true := by
  rw [ranksBefore_iff] at *
  omega

/-- Two entries of different positions are ordered one way or the other. -/
theorem ranksBefore_of_not {R : Nat} {e f : Entry} (hne : linearIndex R e.k e.j.toNat ≠ linearIndex R f.k f.j.toNat)
    (h : ¬ ranksBefore R e f = true) : ranksBefore R f e = true := by
  rw [ranksBefore_iff] at *
  omega

theorem insertRanked_pairwise {R : Nat} {e : Entry} {es : List Entry}
    (hne : ∀ f ∈ es, linearIndex R e.k e.j.toNat ≠ linearIndex R f.k f.j.toNat)
    (h : es.Pairwise fun e f => ranksBefore R e f = true) :
    (insertRanked R e es).Pairwise fun e f => ranksBefore R e f = true := by
  induction es with
  | nil => exact List.pairwise_singleton _ e
  | cons f fs ih =>
    obtain ⟨hf, hfs⟩ := List.pairwise_cons.mp h
    unfold insertRanked
    split
    · next hlt =>
      refine List.pairwise_cons.mpr ⟨fun g hg => ?_, h⟩
      rcases List.mem_cons.mp hg with rfl | hg
      · exact hlt
      · exact ranksBefore_trans hlt (hf g hg)
    · next hnot =>
      refine List.pairwise_cons.mpr ⟨fun g hg => ?_, ih (fun g hg => hne g (List.mem_cons_of_mem f hg)) hfs⟩
      rcases List.mem_cons.mp ((insertRanked_perm R e fs).mem_iff.mp hg) with rfl | hg
      · exact ranksBefore_of_not (hne f List.mem_cons_self) hnot
      · exact hf g hg

/-- Entries of pairwise different positions are sorted strictly. -/
theorem sortRanked_pairwise {R : Nat} {es : List Entry}
    (h : (es.map fun e => linearIndex R e.k e.j.toNat).Nodup) :
    (sortRanked R es).Pairwise fun e f => ranksBefore R e f = true := by
  induction es with
  | nil => exact .nil
  | cons e es ih =>
    obtain ⟨he, hes⟩ := List.nodup_cons.mp h
    refine insertRanked_pairwise (fun f hf heq => he ?_) (ih hes)
    exact List.mem_map.mpr ⟨f, (sortRanked_perm R es).mem_iff.mp hf, heq.symm⟩

/-- The entries of the scan: every position in range, with its counter. -/
theorem mem_scan_iff {s : State} {e : Entry} :
    e ∈ scan s ↔ ∃ k j, j < s.cfg.R ∧ e = ⟨k, num j, s.counter k j⟩ := by
  have hblock : ∀ k, e ∈ scanBlock k s ↔ ∃ j, j < s.cfg.R ∧ e = ⟨k, num j, s.counter k j⟩ := fun k => by
    simp [scanBlock, eq_comm]
  rw [scan, List.mem_append, hblock, hblock]
  constructor
  · rintro (h | h)
    · exact ⟨.b0, h⟩
    · exact ⟨.b1, h⟩
  · rintro ⟨k, h⟩
    cases k with
    | b0 => exact .inl h
    | b1 => exact .inr h

/-- The scan visits the positions by linear index (R150). -/
theorem scan_map_linearIndex {s : State} (h : s.cfg.legal) :
    (scan s).map (fun e => linearIndex s.cfg.R e.k e.j.toNat) = List.range s.cfg.N := by
  have hN := legal_N_lt h
  have hblock : ∀ k, (scanBlock k s).map (fun e => linearIndex s.cfg.R e.k e.j.toNat) =
      (List.range s.cfg.R).map (k.toNat * s.cfg.R + ·) := fun k => by
    rw [scanBlock, List.map_map]
    refine List.map_congr_left fun j hj => ?_
    have hj := List.mem_range.mp hj
    simp only [Function.comp_apply, linearIndex]
    rw [toNat_num (by omega)]
  rw [scan, List.map_append, hblock, hblock, params_N_eq, Nat.two_mul, List.range_add]
  simp [Block.toNat]

/-! ## The first `K` of the order, `TOPK` (R152) -/

theorem sortRanked_scan_pairwise {s : State} (h : s.cfg.legal) :
    (sortRanked s.cfg.R (scan s)).Pairwise fun e f => ranksBefore s.cfg.R e f = true :=
  sortRanked_pairwise (scan_map_linearIndex h ▸ List.nodup_range)

theorem topRanked_length {K : Nat} {s : State} (h : K ≤ s.cfg.N) : (topRanked K s).length = K := by
  rw [topRanked, List.length_take, (sortRanked_perm _ _).length_eq, scan_length, Nat.min_eq_left h]

theorem topRanked_pairwise {s : State} (h : s.cfg.legal) (K : Nat) :
    (topRanked K s).Pairwise fun e f => ranksBefore s.cfg.R e f = true :=
  (sortRanked_scan_pairwise h).sublist (List.take_sublist _ _)

theorem mem_scan_of_mem_topRanked {K : Nat} {s : State} {e : Entry} (h : e ∈ topRanked K s) : e ∈ scan s :=
  (sortRanked_perm _ _).mem_iff.mp (List.mem_of_mem_take h)

/-- What the scan holds and the first `K` leave out comes after all of them. -/
theorem ranksBefore_of_not_mem_topRanked {K : Nat} {s : State} (h : s.cfg.legal) {e f : Entry} (hf : f ∈ scan s)
    (hout : f ∉ topRanked K s) (he : e ∈ topRanked K s) : ranksBefore s.cfg.R e f = true := by
  have hsorted := sortRanked_scan_pairwise h
  have hmem := (sortRanked_perm s.cfg.R _).mem_iff.mpr hf
  rw [← List.take_append_drop K (sortRanked s.cfg.R (scan s))] at hsorted hmem
  obtain ⟨-, -, hcross⟩ := List.pairwise_append.mp hsorted
  exact hcross e he f ((List.mem_append.mp hmem).resolve_left hout)

theorem complete_topk (L : ListId) (K : Nat) (s : State) :
    complete (.topk L.toNat K) s = respond 0 0 (num K) (writeList L (topRanked K s) s) := by
  rw [complete, responseFields, commandEffect, listOf_list_toNat]

/-- Settles O48: the checks in order, then the first `K` entries of the sorted scan are written to the list. -/
theorem topkRanksByCounter : Obligations.TopkRanksByCounter := by
  intro s L K hf
  refine ⟨fun n hn => ?listid, fun hK => ?range, fun hK hctv => ?ctr, fun hlegal hmem hK hctv => ?pass⟩
  case listid => exact traps_of_firstFailure hf (e := .listid) (by simp [ownChecks, hn])
  case range => exact traps_of_firstFailure hf (e := .range) (by simp [ownChecks, params_N_eq, hK.not_ge])
  case ctr => exact traps_of_firstFailure hf (e := .ctr) (by simp [ownChecks, params_N_eq, hK, hctv])
  case pass =>
    have hN := legal_N_lt hlegal
    have hlen : (topRanked K s).length = K := topRanked_length hK
    have hexec : exec (.topk L.toNat K) s = .next (complete (.topk L.toNat K) s) :=
      exec_of_firstFailure_none hf (by simp [ownChecks, params_N_eq, hK, hctv])
    have hwrites := respond_writeList_writesSelection hlegal hmem L (hlen.le.trans hK)
    rw [hlen] at hwrites
    obtain ⟨hentries, hbeyond, hothers, hframe⟩ := hwrites
    rw [hlen] at hbeyond hframe
    rw [complete_topk] at hexec
    refine ⟨_, topRanked K s, hexec, hentries, hlen, fun e he => ?positions,
      (topRanked_pairwise hlegal K).imp ranksBefore_iff.mp, fun k j hj hout e he => ?leftOut, hbeyond, hothers, hframe⟩
    case positions =>
      obtain ⟨k, j, hj, rfl⟩ := mem_scan_iff.mp (mem_scan_of_mem_topRanked he)
      simp only [toNat_num (n := j) (by omega), hj, and_self]
    case leftOut =>
      have hposition : (num j).toNat = j := toNat_num (by omega)
      have hafter : ranksBefore s.cfg.R e ⟨k, num j, s.counter k j⟩ = true :=
        ranksBefore_of_not_mem_topRanked hlegal (mem_scan_iff.mpr ⟨k, j, hj, rfl⟩)
          (fun hmem => hout _ hmem ⟨rfl, hposition⟩) he
      simpa only [ranksBefore_iff, linearIndex, hposition] using hafter

/-! ## Flipping a list, `FLIPL` (R153) -/

theorem flipEntries_eq_foldl (es : List Entry) (s : State) :
    flipEntries es s = es.foldl (fun u e => flip e.k e.j.toNat u) s := by
  induction es generalizing s with
  | nil => rfl
  | cons e es ih => exact ih _

/-- Whether flipping the entries, one after the other, toggles the error bit of a position. -/
def togglesError (es : List Entry) (k : Block) (j : Nat) : Bool :=
  xorAll (es.map fun e => decide (k = e.k ∧ j = e.j.toNat))

/-- Whether flipping the entries, one after the other, toggles check `a` of the syndrome. -/
def togglesCheck (s : State) (es : List Entry) (a : Nat) : Bool :=
  xorAll (es.map fun e =>
    xorAll ((columnPattern s.cfg.R (s.sparse .columns e.k) e.j.toNat).map fun i => decide (a = i)))

theorem flipEntries_append (es fs : List Entry) (s : State) :
    flipEntries (es ++ fs) s = flipEntries fs (flipEntries es s) := by
  simp only [flipEntries_eq_foldl, List.foldl_append]

/-- What `FLIPL` finds when its checks pass under the invariant: both matrices valid, every position in range. -/
structure Flippable (s : State) (es : List Entry) : Prop where
  inv : s.Inv
  matrices : ∀ k, s.mv.get k = true
  inRange : ∀ e ∈ es, e.j.toNat < s.cfg.R

theorem Flippable.flip_head {s : State} {e : Entry} {es : List Entry} (h : Flippable s (e :: es)) :
    Flippable (flip e.k e.j.toNat s) es where
  inv := flip_inv h.inv (h.matrices e.k) (h.inRange e List.mem_cons_self)
  matrices := h.matrices
  inRange f hf := h.inRange f (List.mem_cons_of_mem e hf)

theorem Flippable.after_flips {s : State} {es : List Entry} (h : Flippable s es) :
    Flippable (flipEntries es s) es where
  inv := flipEntries_inv h.inv es h.matrices h.inRange
  matrices := by simpa using h.matrices
  inRange := by simpa using h.inRange

theorem Flippable.errBit {s : State} {es : List Entry} (h : Flippable s es) (k : Block) (j : Nat) :
    (flipEntries es s).errBit k j = Bool.xor (s.errBit k j) (togglesError es k j) := by
  induction es generalizing s with
  | nil => exact (Bool.xor_false _).symm
  | cons e es ih =>
    rw [flipEntries_cons, ih h.flip_head, flip_errBit (h.inv.memories.err e.k), Bool.xor_assoc]
    rfl

theorem Flippable.synBit {s : State} {es : List Entry} (h : Flippable s es) (a : Nat) :
    (flipEntries es s).synBit a = Bool.xor (s.synBit a) (togglesCheck s es a) := by
  induction es generalizing s with
  | nil => exact (Bool.xor_false _).symm
  | cons e es ih =>
    have hj := h.inRange e List.mem_cons_self
    rw [flipEntries_cons, ih h.flip_head, flip_synBit (by omega) h.inv.memories.syn, Bool.xor_assoc]
    rfl

/-- Flipping entries leaves the matrix, and so which checks each flip toggles. -/
theorem togglesCheck_flipEntries (fs es : List Entry) (s : State) :
    togglesCheck (flipEntries fs s) es = togglesCheck s es := by
  have hsparse : ∀ k, (flipEntries fs s).sparse .columns k = s.sparse .columns k :=
    State.sparse_congr (by simp) (by simp) (by simp) .columns
  funext a
  simp only [togglesCheck, hsparse, flipEntries_cfg]

/-- Under the invariant a valid error vector and its weight are fixed by the error bits. -/
theorem State.Inv.err_ew_eq {s t : State} (hs : s.Inv) (ht : t.Inv) (hcfg : t.cfg = s.cfg) (hev : s.ev = true)
    (hev' : t.ev = true) (hbit : ∀ k j, t.errBit k j = s.errBit k j) : t.err = s.err ∧ t.ew = s.ew := by
  refine ⟨Blocks.ext_get fun k => ?_, BitVec.eq_of_toNat_eq ?_⟩
  · exact Memory.ext_read (hcfg ▸ ht.memories.err k) (hs.memories.err k) fun j _ => hbit k j
  · rw [ht.errorWeight hev', hs.errorWeight hev, hcfg, funext (hbit .b0), funext (hbit .b1)]

/-- Under the invariant a valid syndrome and its weight are fixed by the syndrome bits. -/
theorem State.Inv.syn_sw_eq {s t : State} (hs : s.Inv) (ht : t.Inv) (hcfg : t.cfg = s.cfg) (hsv : s.sv = true)
    (hsv' : t.sv = true) (hbit : ∀ a, t.synBit a = s.synBit a) : t.syn = s.syn ∧ t.sw = s.sw := by
  refine ⟨Memory.ext_read (hcfg ▸ ht.memories.syn) hs.memories.syn fun a _ => hbit a, BitVec.eq_of_toNat_eq ?_⟩
  rw [ht.syndromeWeight hsv', hs.syndromeWeight hsv, hcfg, funext hbit]

/-- Flipping the same entries again cancels every toggle. -/
theorem Flippable.flipEntries_flipEntries {s : State} {es : List Entry} (h : Flippable s es) (hev : s.ev = true)
    (hsv : s.sv = true) : flipEntries es (flipEntries es s) = s := by
  have hinv := h.after_flips.after_flips.inv
  obtain ⟨herr, hew⟩ := h.inv.err_ew_eq hinv (by simp) hev (by simpa using hev) fun k j => by
    rw [h.after_flips.errBit, h.errBit, Bool.xor_assoc, Bool.xor_self, Bool.xor_false]
  obtain ⟨hsyn, hsw⟩ := h.inv.syn_sw_eq hinv (by simp) hsv (by simpa using hsv) fun a => by
    rw [h.after_flips.synBit, h.synBit, togglesCheck_flipEntries, Bool.xor_assoc, Bool.xor_self, Bool.xor_false]
  have hframe := flipEntries_frame (es ++ es) s _ rfl
  rw [flipEntries_append, ← herr, ← hew, ← hsyn, ← hsw] at hframe
  exact hframe

theorem commandEffect_flipl (L : ListId) (s : State) :
    commandEffect (.flipl L.toNat) s = flipEntries (s.entries L) s := by
  rw [commandEffect, listOf_list_toNat]

theorem complete_flipl (L : ListId) (s : State) :
    complete (.flipl L.toNat) s =
      respond 0 (s.llen.get L) (flipEntries (s.entries L) s).sw (flipEntries (s.entries L) s) := by
  rw [complete, responseFields, commandEffect_flipl, listOf_list_toNat, flipEntries_llen]

theorem exec_flipl_of_valid {s : State} (hf : s.fault = false) {L : ListId} (h0 : s.mv.b0 = true) (h1 : s.mv.b1 = true)
    (hev : s.ev = true) (hsv : s.sv = true) (hlv : s.lv.get L = true) :
    exec (.flipl L.toNat) s = .next (complete (.flipl L.toNat) s) :=
  exec_of_firstFailure_none hf (by simp [ownChecks, Blocks.get, h0, h1, hev, hsv, hlv])

/-- What `FLIPL` changes: the error vector, the syndrome and their weights. -/
theorem complete_flipl_frame (L : ListId) (s : State) :
    { complete (.flipl L.toNat) s with err := s.err, syn := s.syn, ew := s.ew, sw := s.sw } =
      { s with host := s.host.tail, resp := some (wordOf 0 0 (s.llen.get L) (complete (.flipl L.toNat) s).sw) } := by
  have hframe := flipEntries_frame (s.entries L) s _ rfl
  rw [complete_flipl]
  exact congrArg (answer (wordOf 0 0 (s.llen.get L) (flipEntries (s.entries L) s).sw)) hframe

/-- `FLIPL` twice restores the whole of the SCK. -/
theorem complete_flipl_complete_flipl_sck {s : State} {L : ListId} (h : Flippable s (s.entries L)) (hev : s.ev = true)
    (hsv : s.sv = true) : (complete (.flipl L.toNat) (complete (.flipl L.toNat) s)).sck = s.sck := by
  have hentries : (flipEntries (s.entries L) s).entries L = s.entries L := State.entries_congr (by simp) (by simp)
  rw [complete_sck, ← commandEffect_sck, complete_sck, commandEffect_sck, commandEffect_flipl, commandEffect_flipl,
    hentries, h.flipEntries_flipEntries hev hsv]

/-- Settles O49: the checks in order, then the flips of the entries, which the same flips undo under the invariant. -/
theorem fliplFlipsInListOrder : Obligations.FliplFlipsInListOrder := by
  intro s L hf
  refine ⟨fun n hn => ?listid, fun hmv => ?matrix, fun h0 h1 hev => ?errvec, fun h0 h1 hev hsv => ?synd,
    fun h0 h1 hev hsv hlv => ?list, fun h0 h1 hev hsv hlv => ?pass⟩
  case listid => exact traps_of_firstFailure hf (e := .listid) (by simp [ownChecks, hn])
  case matrix =>
    refine traps_of_firstFailure hf (e := .matrix) ?_
    rcases hmv with h0 | h1
    · simp [ownChecks, Blocks.get, h0]
    · simp [ownChecks, Blocks.get, h1]
  case errvec => exact traps_of_firstFailure hf (e := .errvec) (by simp [ownChecks, Blocks.get, h0, h1, hev])
  case synd => exact traps_of_firstFailure hf (e := .synd) (by simp [ownChecks, Blocks.get, h0, h1, hev, hsv])
  case list => exact traps_of_firstFailure hf (e := .list) (by simp [ownChecks, Blocks.get, h0, h1, hev, hsv, hlv])
  case pass =>
    have hexec := exec_flipl_of_valid hf h0 h1 hev hsv hlv
    refine ⟨_, _, hexec, flipEntries_eq_foldl (s.entries L) s, ?response, complete_flipl_frame L s, fun hinv => ?twice⟩
    case response => rw [complete_flipl, respond, answer, flipEntries_host]
    case twice =>
      have hready : Flippable s (s.entries L) :=
        ⟨hinv, Block.rec h0 h1, fun e he => ((hinv.lists L hlv).inRange e he).1⟩
      have hrestored := complete_flipl_complete_flipl_sck hready hev hsv
      have hagain := exec_flipl_of_valid (s := complete (.flipl L.toNat) s) (L := L) (by simp [complete_flipl, hf])
        (by simp [complete_flipl, h0]) (by simp [complete_flipl, h1]) (by simp [complete_flipl, hev])
        (by simp [complete_flipl, hsv]) (by simp [complete_flipl, hlv])
      exact ⟨_, hagain, (congrArg State.err hrestored :), (congrArg State.syn hrestored :),
        (congrArg State.ew hrestored :), (congrArg State.sw hrestored :)⟩

end Sys2Proof.Machine

/-! # System commands (44_system.md)

The three commands that the fault state accepts and `NOP`, which it refuses; the bits of the status word and the pieces of
the recorded command. -/

namespace Sys2Proof.Machine

open Sys2Proof

/-! ## The outcome of a command in every state (60_exceptions.md R185) -/

theorem commandChecks_of_acceptsFaultState {i : Instr} (h : acceptsFaultState i = true) (s : State) :
    commandChecks i s = ownChecks i s := by
  rw [commandChecks, if_pos h]

theorem traps_of_acceptsFaultState {i : Instr} (h : acceptsFaultState i = true) {s : State} {e : FaultCode}
    (he : firstFailure (ownChecks i s) = some e) : Traps i s e.code := by
  rw [← commandChecks_of_acceptsFaultState h] at he
  rw [Traps, exec_eq_runCommand, runCommand_of_fail _ s he, raise_eq_afterFault]

theorem exec_of_acceptsFaultState {i : Instr} (h : acceptsFaultState i = true) {s : State}
    (hpass : firstFailure (ownChecks i s) = none) : exec i s = .next (complete i s) := by
  rw [← commandChecks_of_acceptsFaultState h] at hpass
  exact exec_of_pass_of_sck rfl hpass

/-- A refusal in the fault state answers, and records nothing (60_exceptions.md R187). -/
theorem raise_faulted_of_fault {s : State} (h : s.fault = true) (cw : Word) :
    raise .faulted cw s = { s with host := s.host.tail, resp := some 0xFF00000000000000 } := by
  have hword : wordOf FaultCode.faulted.code 0x00 0 0 = 0xFF00000000000000 := rfl
  rw [raise, enterFault, if_pos h, hword, answer]

/-! ## The status word and the recorded command (10_state.md R37, R38) -/

theorem flagAt_getLsbD (b : Bool) {n : Nat} (hn : n < 24) (m : Nat) :
    (flagAt b n).getLsbD m = (b && decide (n = m)) := by
  cases b with
  | false => simp [flagAt]
  | true =>
    have hm : n = m → m < 24 := fun h => h ▸ hn
    rw [flagAt, if_pos rfl, num, BitVec.getLsbD_ofNat, Nat.testBit_two_pow]
    simpa using hm

/-- Bit by bit: each flag stands at its place of R38, and above bit 8 there is none. -/
theorem status_getLsbD (s : State) (n : Nat) : s.status.getLsbD n = s.statusBit n := by
  simp only [State.status, BitVec.getLsbD_or, flagAt_getLsbD, Nat.reduceLT]
  match n with
  | 0 | 1 | 2 | 3 | 4 | 5 | 6 | 7 | 8 | n + 9 => simp [Blocks.get, Lists.get, State.statusBit]

/-- The reassembly of R166 gives back the whole word. -/
theorem append_aField_bField (w : Word) : (w.extractLsb' 48 16 ++ aField w ++ bField w : Word) = w := by
  unfold aField bField
  repeat rw [BitVec.extractLsb'_append_extractLsb'_eq_extractLsb' (by rfl)]
  rw [BitVec.extractLsb'_eq_self]

/-! ## Reading status and configuration: `RDST`, `RDCFG` (R166, R168) -/

theorem exec_rdst_of_lt {sel : Nat} (h : sel < 3) (s : State) :
    exec (.rdst sel) s = .next (s.answering 0 (statusWords s sel).1 (statusWords s sel).2) := by
  rw [exec_of_acceptsFaultState rfl (by simp [ownChecks, h]), complete_of_readsOnly rfl, responseFields]

theorem exec_rdcfg_of_lt {sel : Nat} (h : sel < 3) (s : State) :
    exec (.rdcfg sel) s = .next (s.answering 0 (configWords s.cfg sel).1 (configWords s.cfg sel).2) := by
  rw [exec_of_acceptsFaultState rfl (by simp [ownChecks, h]), complete_of_readsOnly rfl, responseFields]

/-- Settles O24: the selector's check in every state, the status bit by bit, and the recorded command in its three
pieces. -/
theorem rdstReadsStatusAndFault : Obligations.RdstReadsStatusAndFault := by
  intro s
  refine ⟨⟨s.status, ?status, fun n _ => status_getLsbD s n⟩,
    ⟨s.fcmd.extractLsb' 48 16, aField s.fcmd, bField s.fcmd, append_aField_bField s.fcmd, ?low, ?high⟩,
    fun sel hsel => ?range, fun hinv => hinv.unfaulted⟩
  case status => exact exec_rdst_of_lt (by decide) s
  case low => exact exec_rdst_of_lt (by decide) s
  case high => exact exec_rdst_of_lt (by decide) s
  case range => exact traps_of_acceptsFaultState rfl (e := .range) (by simp [ownChecks, hsel.not_gt])

/-- Settles O25: the selector's check in every state, and legal parameters fit the 24 bits of a response field. -/
theorem rdcfgReadsConfiguration : Obligations.RdcfgReadsConfiguration := by
  intro s
  refine ⟨fun hlegal => ?read, fun sel hsel => ?range⟩
  case read =>
    have hN := legal_N_lt hlegal
    obtain ⟨-, hWR, -, -, hT⟩ := hlegal
    exact ⟨num s.cfg.R, num s.cfg.W, num s.cfg.T, toNat_num (by omega), toNat_num (by omega), toNat_num (by omega),
      exec_rdcfg_of_lt (by decide) s, exec_rdcfg_of_lt (by decide) s, exec_rdcfg_of_lt (by decide) s⟩
  case range => exact traps_of_acceptsFaultState rfl (e := .range) (by simp [ownChecks, hsel.not_gt])

/-! ## Soft reset and no operation: `SRST`, `NOP` (R169, R165) -/

/-- Settles O26: no check can fail, and the state written is the reset state. -/
theorem srstResets : Obligations.SrstResets := by
  intro s
  refine ⟨complete .srst s, exec_of_acceptsFaultState rfl rfl, complete_sck .srst s, complete_host .srst s, ?_⟩
  rw [complete_of_responseFields_zero rfl]

/-- Settles O23: outside the fault state no check can fail, in it the refusal records nothing. -/
theorem nopDoesNothing : Obligations.NopDoesNothing := by
  refine fun s => ⟨fun hf => ?pass, fun hf => ?refused⟩
  case pass => rw [exec_of_firstFailure_none hf rfl, complete_of_readsOnly rfl, responseFields]
  case refused =>
    have hfail : firstFailure (commandChecks .nop s) = some .faulted := by
      simp [commandChecks, acceptsFaultState, notFaulted, hf]
    rw [exec_eq_runCommand, runCommand_of_fail _ s hfail, raise_faulted_of_fault hf]

end Sys2Proof.Machine

/-! # Exceptions (60_exceptions.md)

The failure of a command word, if it has one; what the step does with it in and outside the fault state, the codes it
can have, and that it is the one the fault table names. Units that share nothing come last. -/

namespace Sys2Proof.Machine

open Sys2Proof

/-! ## The failure of a word (R182) -/

/-- The fault that a command word takes, if any: of the decoding, or of the command's first failing check. -/
def wordFailure (cw : Word) (s : State) : Option FaultCode :=
  match decode cw with
  | .error e => some (wordFault e cw s)
  | .ok i => firstFailure (commandChecks i s)

theorem wordFailure_of_error {cw : Word} {e : DecodeError} (h : decode cw = .error e) (s : State) :
    wordFailure cw s = some (wordFault e cw s) := by
  simp [wordFailure, h]

theorem wordFailure_of_ok {cw : Word} {i : Instr} (h : decode cw = .ok i) (s : State) :
    wordFailure cw s = firstFailure (commandChecks i s) := by
  simp [wordFailure, h]

/-- A word either takes its fault and records itself, or is a command that completes. -/
theorem executeWord_cases_wordFailure (cw : Word) (s : State) :
    (∃ e, wordFailure cw s = some e ∧ executeWord cw s = .next (raise e cw s)) ∨
    (∃ i, decode cw = .ok i ∧ wordFailure cw s = none ∧ executeWord cw s = .next (complete i s)) := by
  cases hd : decode cw with
  | error e => exact .inl ⟨_, wordFailure_of_error hd s, executeWord_of_error hd s⟩
  | ok i =>
    obtain ⟨-, hencode⟩ := decode_eq_ok_iff.mp hd
    rw [wordFailure_of_ok hd, executeWord_of_ok hd]
    rcases exec_cases i s with ⟨e, hfail, hexec⟩ | ⟨hpass, hexec⟩
    · exact .inl ⟨e, hfail, hencode ▸ hexec⟩
    · exact .inr ⟨i, rfl, hpass, hexec⟩

theorem executeWord_next_cases {cw : Word} {s t : State} (h : executeWord cw s = .next t) :
    (∃ e, wordFailure cw s = some e ∧ t = raise e cw s) ∨
    (∃ i, decode cw = .ok i ∧ wordFailure cw s = none ∧ t = complete i s) := by
  rcases executeWord_cases_wordFailure cw s with ⟨e, hfail, hexec⟩ | ⟨i, hd, hnone, hexec⟩
  · exact .inl ⟨e, hfail, Host.Outcome.next.inj (h.symm.trans hexec)⟩
  · exact .inr ⟨i, hd, hnone, Host.Outcome.next.inj (h.symm.trans hexec)⟩

/-- Everything a step can lead to: the idle state, the reset state, fault entry or a completed command. -/
theorem step_next_cases {s t : State} (h : step s = .next t) :
    (s.host = [] ∧ t = s) ∨
    (∃ rest, s.host = .resetInput :: rest ∧ t = resetByInput s) ∨
    (∃ cw rest e, s.host = .command cw :: rest ∧ wordFailure cw s = some e ∧ t = raise e cw s) ∨
    (∃ cw rest i, s.host = .command cw :: rest ∧ decode cw = .ok i ∧ t = complete i s) := by
  rcases step_cases s with ⟨hhost, hidle⟩ | ⟨rest, hhost, hreset⟩ | ⟨cw, rest, hhost, hword⟩
  · exact .inl ⟨hhost, Host.Outcome.next.inj (h.symm.trans hidle)⟩
  · exact .inr (.inl ⟨rest, hhost, Host.Outcome.next.inj (h.symm.trans hreset)⟩)
  · rcases executeWord_next_cases (hword.symm.trans h) with ⟨e, hfail, rfl⟩ | ⟨i, hd, -, rfl⟩
    · exact .inr (.inr (.inl ⟨cw, rest, e, hhost, hfail, rfl⟩))
    · exact .inr (.inr (.inr ⟨cw, rest, i, hhost, hd, rfl⟩))

/-! ## The refusal of the fault state (R185) -/

/-- The fault state accepts the same commands by their `op` byte as by their name. -/
theorem acceptedInFault_opcode (i : Instr) : acceptedInFault i.opcode = acceptsFaultState i := by
  cases i <;> rfl

theorem wordFailure_of_refused {cw : Word} {s : State} (hf : s.fault = true)
    (hop : acceptedInFault (opField cw) = false) : wordFailure cw s = some .faulted := by
  cases hd : decode cw with
  | error e => simp [wordFailure_of_error hd, wordFault, hf, hop]
  | ok i =>
    have haccepts : acceptsFaultState i = false := by
      rw [← acceptedInFault_opcode, ← (decode_eq_ok_iff_opcode.mp hd).1, hop]
    simp [wordFailure_of_ok hd, commandChecks, haccepts, notFaulted, hf]

theorem fault_of_wordFailure_faulted {cw : Word} {s : State} (h : wordFailure cw s = some .faulted) :
    s.fault = true := by
  cases hd : decode cw with
  | error e => exact fault_of_wordFault_faulted (Option.some.inj ((wordFailure_of_error hd s).symm.trans h))
  | ok i => exact fault_of_firstFailure_faulted ((wordFailure_of_ok hd s).symm.trans h)

/-- A word that the fault state does not refuse and that is no command takes the fault of its decoding. -/
theorem wordFailure_of_error_of_not_refused {cw : Word} {s : State} {e : DecodeError} (hd : decode cw = .error e)
    (h : ¬ (s.fault = true ∧ acceptedInFault (opField cw) = false)) : wordFailure cw s = some (decodeFault e) := by
  have hcond : ¬ (s.fault && !acceptedInFault (opField cw)) = true := by simpa using h
  rw [wordFailure_of_error hd, wordFault, if_neg hcond]

theorem acceptedInFault_eq_false_iff {op : Byte} :
    acceptedInFault op = false ↔ op ≠ 0x01 ∧ op ≠ 0x02 ∧ op ≠ 0x03 := by
  simp [acceptedInFault, and_assoc]

/-- Settles O16: the refusal looks at `op` alone, and the two reads accept the fault state. -/
theorem faultStateRefuses : Obligations.FaultStateRefuses := by
  intro s hf
  refine ⟨fun cw rest hhost h1 h2 h3 => ?refused, fun sel hsel => ⟨⟨_, _, exec_rdst_of_lt hsel s⟩, _, _,
    exec_rdcfg_of_lt hsel s⟩⟩
  have hfail := wordFailure_of_refused hf (acceptedInFault_eq_false_iff.mpr ⟨h1, h2, h3⟩)
  rw [step_of_command hhost]
  rcases executeWord_cases_wordFailure cw s with ⟨e, he, hexec⟩ | ⟨i, -, hnone, -⟩
  · obtain rfl : FaultCode.faulted = e := Option.some.inj (hfail.symm.trans he)
    rw [hexec, raise_faulted_of_fault hf, hhost, List.tail_cons]
  · cases hfail.symm.trans hnone

/-! ## Fault entry (R183, R184, R187) -/

/-- Settles O14: a status other than 0 comes from fault entry, which records the word and its code. -/
theorem faultEntryIsPrecise : Obligations.FaultEntryIsPrecise := by
  intro s t cw rw rest hhost hstep hresp hstatus
  rw [step_of_command hhost] at hstep
  rcases executeWord_next_cases hstep with ⟨e, -, rfl⟩ | ⟨i, -, -, rfl⟩
  · obtain rfl : wordOf e.code 0x00 0 0 = rw := by simpa using hresp
    rw [opField_wordOf, raise_eq_afterFault, State.afterFault, hhost, List.tail_cons]
    exact ⟨rfl, fun hf => by simp [hf], fun hf => by simp [hf]⟩
  · obtain rfl : wordOf 0x00 _ _ _ = rw := by simpa using hresp
    exact absurd (opField_wordOf ..) hstatus

/-! ## The fault registers after a command that completes (R186) -/

/-- Besides `SRST` no command that completes writes a fault register. -/
theorem commandEffect_fault_registers (i : Instr) (s : State) :
    i = .srst ∨ (commandEffect i s).fault = s.fault ∧ (commandEffect i s).fcode = s.fcode := by
  cases i
  case srst => exact .inl rfl
  all_goals exact .inr (by simp [commandEffect])

/-- Settles O17: fault entry keeps `FAULT` set, and of the commands only `SRST` writes it. -/
theorem onlyResetLeavesFaultState : Obligations.OnlyResetLeavesFaultState := by
  intro s t hf hstep ht
  rcases step_next_cases hstep with ⟨-, rfl⟩ | ⟨rest, hhost, rfl⟩ | ⟨_, _, _, -, -, rfl⟩ |
    ⟨cw, rest, i, hhost, hd, rfl⟩
  · simp [hf] at ht
  · exact ⟨⟨rest, .inl hhost⟩, rfl⟩
  · simp at ht
  · rcases commandEffect_fault_registers i s with rfl | ⟨hfault, -⟩
    · obtain rfl : 0x0300000000000000 = cw := (decode_eq_ok_iff.mp hd).2
      exact ⟨⟨rest, .inr hhost⟩, rfl⟩
    · simp [complete, hfault, hf] at ht

/-! ## The codes (R180) -/

theorem code_le_or_eq_faulted (e : FaultCode) : e.code.toNat ≤ 0x0C ∨ e.code = 0xFF := by
  by_cases he : e = .faulted
  · exact .inr (he ▸ rfl)
  · exact .inl (code_le_of_ne_faulted he).2

/-- Fault entry records a code only outside the fault state, where it is not 0xFF. -/
theorem raise_fcode_le {cw : Word} {s : State} {e : FaultCode} (hfail : wordFailure cw s = some e)
    (hfcode : s.fcode.toNat ≤ 0x0C) : (raise e cw s).fcode.toNat ≤ 0x0C := by
  rw [raise_fcode]
  split
  · exact hfcode
  · next hf => exact (code_le_of_ne_faulted fun he => hf (fault_of_wordFailure_faulted (he ▸ hfail))).2

theorem complete_fcode_le (i : Instr) {s : State} (hfcode : s.fcode.toNat ≤ 0x0C) :
    (complete i s).fcode.toNat ≤ 0x0C := by
  rcases commandEffect_fault_registers i s with rfl | ⟨-, hkeep⟩
  · exact Nat.zero_le _
  · simpa [complete, hkeep] using hfcode

/-- Settles O18: the code 0xFF answers in the fault state alone, where nothing is recorded. -/
theorem faultCodesAreTheListed : Obligations.FaultCodesAreTheListed := by
  intro s t hstep
  rcases step_next_cases hstep with ⟨hhost, rfl⟩ | ⟨rest, hhost, rfl⟩ | ⟨_, _, e, -, hfail, rfl⟩ |
    ⟨_, _, i, -, -, rfl⟩
  · exact ⟨id, fun _ _ _ h => by simp [hhost] at h⟩
  · exact ⟨fun _ => Nat.zero_le _, fun _ _ _ h => by simp [hhost] at h⟩
  · refine ⟨raise_fcode_le hfail, fun _ rw _ _ hresp => ?_⟩
    obtain rfl : wordOf e.code 0x00 0 0 = rw := by simpa using hresp
    rw [opField_wordOf]
    exact code_le_or_eq_faulted e
  · refine ⟨complete_fcode_le i, fun _ rw _ _ hresp => .inl ?_⟩
    obtain rfl : wordOf 0x00 _ _ _ = rw := by simpa using hresp
    rw [opField_wordOf]
    exact Nat.zero_le _

/-! ## The fault table (R181) -/

/-- The status that reports a failure, 0x00 when there is none. -/
def statusCode : Option FaultCode → Byte
  | none => 0x00
  | some e => e.code

/-- A check as a column of the fault table: the condition that is a fault, and its code. -/
def tableColumn (c : Check) : Bool × Byte := (!c.1, c.2.code)

/-- A row of the table names the code of the first check that fails. -/
theorem firstCode_map_tableColumn (cs : List Check) :
    firstCode (cs.map tableColumn) = statusCode (firstFailure cs) := by
  induction cs with
  | nil => rfl
  | cons c cs ih =>
    obtain ⟨ok, e⟩ := c
    cases ok
    · rfl
    · simpa [tableColumn, firstCode] using ih

/-- Two adjacent columns with one code are one column, wherever in the row they stand. -/
theorem firstCode_append_or (row : List (Bool × Byte)) (a b : Bool) (code : Byte) (cs : List (Bool × Byte)) :
    firstCode (row ++ (a || b, code) :: cs) = firstCode (row ++ (a, code) :: (b, code) :: cs) := by
  induction row with
  | nil => cases a <;> rfl
  | cons column row ih => simp [firstCode, ih]

@[simp] theorem tableColumn_notFaulted (s : State) : tableColumn (notFaulted s) = (s.fault, 0xFF) :=
  Prod.ext (Bool.not_not _) rfl

/-- The column of a check that decides a condition is the negated condition. -/
theorem tableColumn_decide {p q : Prop} [Decidable p] [Decidable q] (h : ¬ p ↔ q) (e : FaultCode) :
    tableColumn (decide p, e) = (decide q, e.code) :=
  Prod.ext (decide_not.symm.trans (decide_eq_decide.mpr h)) rfl

@[simp] theorem tableColumn_legalBlock (k : Nat) : tableColumn (legalBlock k) = (decide (2 ≤ k), 0x03) :=
  tableColumn_decide Nat.not_lt .block

@[simp] theorem tableColumn_legalList (L : Nat) : tableColumn (legalList L) = (decide (3 ≤ L), 0x04) :=
  tableColumn_decide Nat.not_lt .listid

@[simp] theorem tableColumn_below (x bound : Nat) : tableColumn (below x bound) = (decide (bound ≤ x), 0x05) :=
  tableColumn_decide Nat.not_lt .range

@[simp] theorem tableColumn_atMost (x bound : Nat) : tableColumn (atMost x bound) = (decide (bound < x), 0x05) :=
  tableColumn_decide Nat.not_le .range

@[simp] theorem tableColumn_weightMatches (s : State) :
    tableColumn (weightMatches s) = (decide (s.ew.toNat ≠ s.cfg.T), 0x07) :=
  tableColumn_decide Iff.rfl .weight

@[simp] theorem tableColumn_sourceValid (d : Direction) (k : Block) (s : State) :
    tableColumn (sourceValid d k s) = (!validSparse s.cfg.R (s.sparse (sourceSide d) k), 0x06) := rfl

@[simp] theorem tableColumn_needMatrix (k : Block) (s : State) :
    tableColumn (needMatrix k s) = (!s.mv.get k, 0x08) := rfl

@[simp] theorem tableColumn_needError (s : State) : tableColumn (needError s) = (!s.ev, 0x09) := rfl

@[simp] theorem tableColumn_needSyndrome (s : State) : tableColumn (needSyndrome s) = (!s.sv, 0x0A) := rfl

@[simp] theorem tableColumn_needCounters (s : State) : tableColumn (needCounters s) = (!s.ctv, 0x0B) := rfl

@[simp] theorem tableColumn_needList (L : ListId) (s : State) :
    tableColumn (needList L s) = (!s.lv.get L, 0x0C) := rfl

/-- The status of the fault table is the code of the first failing check. The columns of a command are its checks, but
for the two ranges of `WRS`, which stand in one column. -/
theorem expectedStatus_eq_statusCode (i : Instr) (s : State) :
    expectedStatus i s = statusCode (firstFailure (commandChecks i s)) := by
  rw [← firstCode_map_tableColumn]
  cases i
  case wrs sel k l p =>
    simp only [expectedStatus, commandChecks, acceptsFaultState, ownChecks, Bool.false_eq_true, if_false, List.map_cons,
      List.map_nil, tableColumn_notFaulted, tableColumn_legalBlock, tableColumn_below, Bool.decide_or]
    exact firstCode_append_or [_, _] _ _ _ []
  case trn d k =>
    cases d <;> simp [expectedStatus, commandChecks, acceptsFaultState, ownChecks, sourceSide]
  case topk L K =>
    simp [expectedStatus, commandChecks, acceptsFaultState, ownChecks, params_N_eq]
  all_goals simp [expectedStatus, commandChecks, acceptsFaultState, ownChecks]

theorem executeWord_status (cw : Word) (s : State) :
    ∃ t rw, executeWord cw s = .next t ∧ t.resp = some rw ∧ opField rw = statusCode (wordFailure cw s) := by
  rcases executeWord_cases_wordFailure cw s with ⟨e, hfail, hexec⟩ | ⟨i, -, hnone, hexec⟩
  · exact ⟨_, _, hexec, raise_resp e cw s, by rw [hfail, opField_wordOf, statusCode]⟩
  · exact ⟨_, _, hexec, complete_resp i s, by rw [hnone, opField_wordOf, statusCode]⟩

/-- A word whose opcode no row of the table has. -/
theorem decode_of_no_tableRow {cw : Word} (h : ∀ r ∈ tableRows, opField cw ≠ opField r.matchBits) :
    decode cw = .error .opcode := by
  rw [decode_eq_error_opcode_iff]
  cases hrow : rowOfOp (opField cw) with
  | none => rfl
  | some o =>
    obtain ⟨ho, hop⟩ := rowOfOp_eq_some_iff.mp hrow
    obtain ⟨r, hr, hdesc⟩ := exists_tableRow_of_row ho
    exact absurd (by rw [hdesc.matchBits, opField_wordOf, hop]) (h r hr)

/-- Settles O15: the status is that of the word's failure, found in the order of R182. -/
theorem statusFollowsFaultTable : Obligations.StatusFollowsFaultTable := by
  intro s cw rest hhost
  obtain ⟨t, rw, hexec, hresp, hstatus⟩ := executeWord_status cw s
  rw [← acceptedInFault_eq_false_iff]
  refine ⟨t, rw, (step_of_command hhost).trans hexec, hresp, fun ⟨hf, hop⟩ => ?refused,
    fun hok => ⟨fun hrows => ?opcode, fun r hr hop hmatch => ?field, fun i hd => ?command⟩⟩
  case refused => rw [hstatus, wordFailure_of_refused hf hop]; rfl
  case opcode =>
    rw [hstatus, wordFailure_of_error_of_not_refused (decode_of_no_tableRow hrows) hok]
    rfl
  case field =>
    obtain ⟨o, ho, hdesc⟩ := exists_row_of_tableRow hr
    rw [hstatus, wordFailure_of_error_of_not_refused (hdesc.decode_of_not_matches ho hop hmatch) hok]
    rfl
  case command => rw [hstatus, wordFailure_of_ok hd, expectedStatus_eq_statusCode]

/-! ## Units (R194) -/

/-- The state that a step leads to. -/
def stepped (s : State) : State :=
  match step s with
  | .next t => t
  | .fault _ | .refused _ => s

theorem step_eq_stepped (s : State) : step s = .next (stepped s) := by
  obtain ⟨t, hstep, -⟩ := everyStepAnswers s
  simp [stepped, hstep]

/-- A step of a unit replaces that unit and nothing else. -/
theorem stepUnit_eq_modify (u : Nat) (us : Units) : stepUnit u us = .next (us.modify u stepped) := by
  rw [List.modify_eq_set_getElem?]
  cases hu : us[u]? with
  | none => simp [stepUnit, hu]
  | some s => simp [stepUnit, hu, step_eq_stepped]

/-- Settles O12: replacements at different places leave each other's place alone and commute. -/
theorem unitsStepIndependently : Obligations.UnitsStepIndependently := by
  intro us us1 us2 u v huv h1 h2
  obtain rfl := Host.Outcome.next.inj ((stepUnit_eq_modify u us).symm.trans h1)
  obtain rfl := Host.Outcome.next.inj ((stepUnit_eq_modify v _).symm.trans h2)
  refine ⟨List.getElem?_modify_ne stepped us huv, us.modify v stepped, stepUnit_eq_modify v us, ?_⟩
  rw [stepUnit_eq_modify, List.modify_modify_ne stepped stepped us huv]

end Sys2Proof.Machine

/-! # Reset (70_reset_and_hazards.md)

The reset input: the step that serves it, and what that step leaves. -/

namespace Sys2Proof.Machine

open Sys2Proof

/-! ## The reset input (R200) -/

theorem step_of_resetInput {s : State} {rest : List HostEvent} (h : s.host = .resetInput :: rest) :
    step s = .next (resetByInput s) := by
  simp [step, serveHost, h]

/-- Away from the port the state after the reset input is the reset state (10_state.md R44). -/
theorem resetByInput_sck (s : State) : (resetByInput s).sck = State.resetOf s.cfg := rfl

/-- Settles O10: the reset input writes the whole SCK state, answers nothing and takes itself off the stream. -/
theorem resetInputResets : Obligations.ResetInputResets := by
  intro s rest hhost
  refine ⟨resetByInput s, step_of_resetInput hhost, resetByInput_sck s, ?host, ?resp⟩
  case host => rw [resetByInput_host, hhost, List.tail_cons]
  case resp => rw [resetByInput_resp, resetOf_resp]

end Sys2Proof.Machine

/-! # The first command after reset (70_reset_and_hazards.md section 1)

Straight after reset every flag is 0 and every list reads 0, so a command with operands in range fails at the first flag
it checks. -/

namespace Sys2Proof.Machine

open Sys2Proof

/-! ## The status of a command -/

/-- A command answers the code of its first failing check, 0x00 when none fails. -/
theorem exec_status (i : Instr) (s : State) :
    ∃ t rw, exec i s = .next t ∧ t.resp = some rw ∧ opField rw = statusCode (firstFailure (commandChecks i s)) := by
  rcases exec_cases i s with ⟨e, hfail, hexec⟩ | ⟨hnone, hexec⟩
  · exact ⟨_, _, hexec, raise_resp e _ s, by rw [hfail, opField_wordOf, statusCode]⟩
  · exact ⟨_, _, hexec, complete_resp i s, by rw [hnone, opField_wordOf, statusCode]⟩

/-! ## The checks in the reset state -/

@[simp] theorem firstFailure_cons_legalBlock_of_lt {n : Nat} (h : n < 2) (cs : List Check) :
    firstFailure (legalBlock n :: cs) = firstFailure cs := by
  simp [legalBlock, Config.INDEX, h]

@[simp] theorem firstFailure_cons_legalList_of_lt {n : Nat} (h : n < 3) (cs : List Check) :
    firstFailure (legalList n :: cs) = firstFailure cs := by
  simp [legalList, Config.NLIST, h]

theorem resetOf_sparse_eq_replicate (p : Config.Params) (sel : Side) (k : Block) :
    (State.resetOf p).sparse sel k = List.replicate p.W 0 := by
  simp [State.sparse, resetOf_sparse]

/-- A block that lists position 0 alone is valid exactly when it lists it once. -/
theorem validSparse_replicate_zero {R W : Nat} (hR : 0 < R) (hW : 1 ≤ W) :
    validSparse R (List.replicate W 0) = decide (W = 1) := by
  rw [Bool.eq_iff_iff, decide_eq_true_eq]
  constructor
  · intro hvalid
    have hle := List.nodup_replicate.mp (validSparse_nodup hvalid)
    omega
  · rintro rfl
    exact (validSparse_iff R [0]).mpr ⟨List.pairwise_singleton _ 0, by simpa using hR⟩

/-- With operands in range the first failing check after reset is the first flag, for `TRN` the order of its source. -/
theorem statusCode_ownChecks_resetOf {p : Config.Params} (hp : p.legal) {i : Instr} (hi : i.operandsLegal p = true) :
    statusCode (firstFailure (ownChecks i (State.resetOf p))) = statusAfterReset p i := by
  cases i
  case trn d k =>
    obtain ⟨hW, -, hR, -⟩ := hp
    have hk : k < 2 := of_decide_eq_true hi
    simp only [ownChecks, firstFailure_cons_legalBlock_of_lt hk, firstFailure_cons_sourceValid, resetOf_cfg,
      resetOf_sparse_eq_replicate, validSparse_replicate_zero (by omega : 0 < p.R) hW, decide_eq_true_eq,
      statusAfterReset]
    split <;> rfl
  case rdst | rdcfg | srst | nop | wrs | rds | eclr | sclr =>
    refine congrArg statusCode (?_ : firstFailure _ = none)
    simp_all [ownChecks, Instr.operandsLegal]
  case rdd | xacc | syn | flip | cnt | getc | flipl =>
    refine congrArg statusCode (?_ : firstFailure _ = some .matrix)
    simp_all [ownChecks, Instr.operandsLegal]
  case etog | rde | rdew | ewchk =>
    refine congrArg statusCode (?_ : firstFailure _ = some .errvec)
    simp_all [ownChecks, Instr.operandsLegal]
  case stog | rdsy | rdsw =>
    refine congrArg statusCode (?_ : firstFailure _ = some .synd)
    simp_all [ownChecks, Instr.operandsLegal]
  case rdc | selr | topk =>
    refine congrArg statusCode (?_ : firstFailure _ = some .ctr)
    simp_all [ownChecks, Instr.operandsLegal, params_N_eq]
  case rdl | rdln =>
    refine congrArg statusCode (?_ : firstFailure _ = some .list)
    simp_all [ownChecks, Instr.operandsLegal]

/-- `RDST 0` reads no flag set and no fault after reset. -/
theorem responseFields_rdst_zero_resetOf (p : Config.Params) :
    responseFields (.rdst 0) (State.resetOf p) = (0, 0, 0) := by
  simp [responseFields, statusWords, State.status, flagAt]

theorem responseFields_rds_resetOf (p : Config.Params) (sel : Side) (k l : Nat) :
    responseFields (.rds sel k l) (State.resetOf p) = (0, 0, 0) := by
  rw [responseFields, resetOf_sparse]

/-- A command that answers status 0 and three zero fields answers the zero word. -/
theorem resp_eq_zero {i : Instr} {s t : State} {rw : Word} (hexec : exec i s = .next t) (hresp : t.resp = some rw)
    (hstatus : opField rw = 0x00) (hfields : responseFields i s = (0, 0, 0)) : rw = 0 := by
  obtain ⟨-, rfl⟩ := complete_of_status_zero hexec hresp hstatus
  rw [complete_resp, hfields] at hresp
  exact (Option.some.inj hresp).symm

/-- Settles O19: the status is that of the first failing check, and the two reads find zeros. -/
theorem statusStraightAfterReset : Obligations.StatusStraightAfterReset := by
  intro p i hp hi
  obtain ⟨t, rw, hexec, hresp, hcode⟩ := exec_status i (State.resetOf p)
  have hstatus : opField rw = statusAfterReset p i := by
    rw [hcode, firstFailure_commandChecks (resetOf_fault p), statusCode_ownChecks_resetOf hp hi]
  refine ⟨t, rw, hexec, hresp, hstatus, ?rdst, ?rds⟩
  case rdst =>
    rintro rfl
    exact resp_eq_zero hexec hresp hstatus (responseFields_rdst_zero_resetOf p)
  case rds =>
    rintro sel k l rfl
    exact resp_eq_zero hexec hresp hstatus (responseFields_rds_resetOf p sel k l)

end Sys2Proof.Machine

/-! # Laws that the spec infers

The duality of the two products (40_block_algebra.md section 1), what a flip keeps (41_error_syndrome.md section 3), the
commands that undo themselves (20_memory.md section 2), the order of a list of flips (43_ranking.md), and the snapshot
right after it is taken (42_counters.md). -/

namespace Sys2Proof.Machine

open Sys2Proof

/-! ## Gather and scatter (40_block_algebra.md section 1) -/

/-- Gathered over the transpose, the integer product is the scattered one over the block. -/
theorem muladd_transpose {R : Nat} {P : List Nat} (h : validSparse R P = true) (Y : Nat → Bool) {j : Nat}
    (hj : j < R) : muladd R (transpose R P) Y j = muladdScatter R P Y j := by
  rw [← muladdScatter_transpose (validSparse_transpose h) Y hj, transpose_transpose h]

theorem mulxScatter_eq_parity_muladdScatter (R : Nat) (P : List Nat) (Y : Nat → Bool) (j : Nat) :
    mulxScatter R P Y j = decide (muladdScatter R P Y j % 2 = 1) := by
  rw [mulxScatter, xorAll_eq_parity, List.map_map]
  rfl

/-- Settles O52: the sums agree, and each GF(2) product is the parity of its sum. -/
theorem gatherScatterDuality : Obligations.GatherScatterDuality := by
  intro R P Y j hP hj
  refine ⟨?_, muladd_transpose hP Y hj⟩
  rw [mulx_eq_parity_muladd, muladd_transpose hP Y hj, mulxScatter_eq_parity_muladdScatter]

/-! ## What a flip keeps (41_error_syndrome.md section 3) -/

/-- A row of the circulant times a unit vector is one bit of that row. -/
theorem rowTimes_unit {R : Nat} (col : List Nat) (a : Nat) {j : Nat} (hj : j < R) :
    rowTimes R col (fun b => decide (b = j)) a = Hbit R col a j := by
  have hcount : (List.range R).countP (fun b => Hbit R col a b && decide (b = j)) = [j].countP (Hbit R col a) := by
    rw [← countP_range_mem (List.nodup_singleton j) (by simpa using hj)]
    exact List.countP_congr fun b _ => by simp [and_comm]
  rw [rowTimes, xorAll_map_eq_parity, hcount]
  cases h : Hbit R col a j <;> simp [h]

theorem rowTimes_xor (R : Nat) (col : List Nat) (e f : Nat → Bool) (a : Nat) :
    rowTimes R col (fun b => Bool.xor (e b) (f b)) a = Bool.xor (rowTimes R col e a) (rowTimes R col f a) := by
  simp only [rowTimes, Bool.and_xor_distrib_left, xorAll_map_xor]

/-- Toggling bit `j` of the error vector adds column `j` of the circulant to its product. -/
theorem rowTimes_toggle {R : Nat} (col : List Nat) (e : Nat → Bool) {j : Nat} (hj : j < R) (a : Nat) :
    rowTimes R col (fun b => Bool.xor (e b) (decide (b = j))) a = Bool.xor (rowTimes R col e a) (Hbit R col a j) := by
  rw [rowTimes_xor, rowTimes_unit col a hj]

/-- `(H * ERR^T)[a]` of a state, by its column lists (00_scope.md R17). -/
def State.errorSyndrome (s : State) (a : Nat) : Bool :=
  syndromeOf s.cfg.R (s.sparse .columns .b0) (s.sparse .columns .b1) (s.errBit .b0) (s.errBit .b1) a

/-- A flip adds column `j` of its block to `H * ERR^T`. -/
theorem flip_errorSyndrome {s : State} {k : Block} (h : (s.err.get k).wf s.cfg.R = true) {j : Nat} (hj : j < s.cfg.R)
    (a : Nat) :
    (flip k j s).errorSyndrome a = Bool.xor (s.errorSyndrome a) (Hbit s.cfg.R (s.sparse .columns k) a j) := by
  have hsame : (flip k j s).errBit k = fun b => Bool.xor (s.errBit k b) (decide (b = j)) :=
    funext fun b => by simp [flip_errBit h]
  have hother : ∀ k', k' ≠ k → (flip k j s).errBit k' = s.errBit k' := fun k' hne =>
    funext fun b => by simp [flip_errBit h, hne]
  have hsparse : ∀ k', (flip k j s).sparse .columns k' = s.sparse .columns k' := fun k' =>
    State.sparse_congr rfl rfl rfl .columns k'
  simp only [State.errorSyndrome, syndromeOf, hsparse, flip_cfg]
  cases k with
  | b0 => rw [hsame, hother .b1 (by decide), rowTimes_toggle _ _ hj, Bool.xor_right_comm]
  | b1 => rw [hsame, hother .b0 (by decide), rowTimes_toggle _ _ hj, Bool.xor_assoc]

/-- A flip adds column `j` of its block to the syndrome. -/
theorem flip_synBit_eq_xor_Hbit {s : State} (hsyn : s.syn.wf s.cfg.R = true) {k : Block}
    (hk : validSparse s.cfg.R (s.sparse .columns k) = true) {j : Nat} (hj : j < s.cfg.R) {a : Nat} (ha : a < s.cfg.R) :
    (flip k j s).synBit a = Bool.xor (s.synBit a) (Hbit s.cfg.R (s.sparse .columns k) a j) := by
  rw [flip_synBit (by omega) hsyn, xorAll_map_decide_eq (columnPattern_nodup hk hj),
    Hbit_eq_mem_columnPattern hk ha hj]

theorem flip_synBit_xor_errorSyndrome {s : State} (h : s.Inv) {k : Block} (hk : s.mv.get k = true) {j : Nat}
    (hj : j < s.cfg.R) {a : Nat} (ha : a < s.cfg.R) :
    Bool.xor ((flip k j s).synBit a) ((flip k j s).errorSyndrome a) =
      Bool.xor (s.synBit a) (s.errorSyndrome a) := by
  rw [flip_synBit_eq_xor_Hbit h.memories.syn (h.matrix k hk).columns hj ha,
    flip_errorSyndrome (h.memories.err k) hj]
  simp [Bool.xor_left_comm, Bool.xor_comm]

/-- Settles O55: the same column is added to the syndrome and to `H * ERR^T`. -/
theorem flipKeepsSyndromeDifference : Obligations.FlipKeepsSyndromeDifference := by
  intro s t k j hinv hf hmv hev hsv hj hexec a ha
  have hpass : exec (.flip k.toNat j) s = .next (complete (.flip k.toNat j) s) :=
    exec_of_firstFailure_none hf (by simp [ownChecks, hj, hmv, hev, hsv])
  obtain rfl := Host.Outcome.next.inj (hpass.symm.trans hexec)
  rw [complete_flip]
  exact flip_synBit_xor_errorSyndrome hinv hmv hj ha

/-! ## Commands that undo themselves (20_memory.md section 2) -/

/-- Two states with the same error vector, syndrome and weights. -/
structure SameVectors (s t : State) : Prop where
  err : t.err = s.err
  syn : t.syn = s.syn
  ew : t.ew = s.ew
  sw : t.sw = s.sw

theorem SameVectors.of_sck {s t : State} (h : t.sck = s.sck) : SameVectors s t :=
  ⟨(congrArg State.err h :), (congrArg State.syn h :), (congrArg State.ew h :), (congrArg State.sw h :)⟩

theorem SameVectors.trans {s t u : State} (h : SameVectors s t) (h' : SameVectors t u) : SameVectors s u :=
  ⟨h'.err.trans h.err, h'.syn.trans h.syn, h'.ew.trans h.ew, h'.sw.trans h.sw⟩

/-- Under the invariant, with both vectors valid, their bits fix everything. -/
theorem State.Inv.sameVectors {s t : State} (hs : s.Inv) (ht : t.Inv) (hcfg : t.cfg = s.cfg) (hev : s.ev = true)
    (hev' : t.ev = true) (hsv : s.sv = true) (hsv' : t.sv = true) (herr : ∀ k j, t.errBit k j = s.errBit k j)
    (hsyn : ∀ a, t.synBit a = s.synBit a) : SameVectors s t :=
  have ⟨he, hew⟩ := hs.err_ew_eq ht hcfg hev hev' herr
  have ⟨hy, hsw⟩ := hs.syn_sw_eq ht hcfg hsv hsv' hsyn
  ⟨he, hy, hew, hsw⟩

theorem toggleSyndrome_toggleSyndrome {s : State} {j : Nat} (h : s.syn.wf s.cfg.R = true) (hj : j < s.cfg.R) :
    toggleSyndrome j (toggleSyndrome j s) = s := by
  have hsyn : (toggleSyndrome j s).syn.toggle j = s.syn := Memory.toggle_toggle h hj
  have hbit : (toggleSyndrome j s).synBit j = !s.synBit j := by simp [toggleSyndrome_synBit_ite h]
  rw [toggleSyndrome, hsyn, hbit, toggleSyndrome_sw, adjusted_adjusted]
  rfl

/-- The second flip adds the column that the first one added. -/
theorem flip_flip_sameVectors {s : State} (h : s.Inv) {k : Block} {j : Nat} (hk : s.mv.get k = true)
    (hj : j < s.cfg.R) (hev : s.ev = true) (hsv : s.sv = true) : SameVectors s (flip k j (flip k j s)) := by
  have hR : 0 < s.cfg.R := by omega
  have h' := flip_inv h hk hj
  have hsparse : (flip k j s).sparse .columns k = s.sparse .columns k := State.sparse_congr rfl rfl rfl .columns k
  refine h.sameVectors (flip_inv h' hk hj) rfl hev hev hsv hsv (fun k' j' => ?err) fun a => ?syn
  case err =>
    rw [flip_errBit (h'.memories.err k), flip_errBit (h.memories.err k), Bool.xor_assoc, Bool.xor_self, Bool.xor_false]
  case syn =>
    rw [flip_synBit (s := flip k j s) hR h'.memories.syn, flip_synBit hR h.memories.syn, hsparse, flip_cfg,
      Bool.xor_assoc, Bool.xor_self, Bool.xor_false]

/-- The commands that 20_memory.md section 2 names: issued twice, they undo themselves. -/
def undoesItself : Instr → Prop
  | .etog _ _ | .stog _ | .flip _ _ | .flipl _ => True
  | _ => False

/-- None of them clears a flag that it needs. -/
theorem commandChecks_complete {i : Instr} (hi : undoesItself i) (s : State) :
    commandChecks i (complete i s) = commandChecks i s := by
  cases i
  case etog | stog | flip => rfl
  case flipl L =>
    simp [commandChecks, acceptsFaultState, notFaulted, ownChecks, needMatrix, needError, needSyndrome, needList,
      complete, commandEffect]
  all_goals exact hi.elim

theorem complete_complete_sck (i : Instr) (s : State) :
    (complete i (complete i s)).sck = (commandEffect i (commandEffect i s)).sck := by
  rw [complete_sck, ← commandEffect_sck, complete_sck, commandEffect_sck]

theorem State.Inv.flippable {s : State} (h : s.Inv) {L : ListId} (h0 : s.mv.b0 = true) (h1 : s.mv.b1 = true)
    (hlv : s.lv.get L = true) : Flippable s (s.entries L) :=
  ⟨h, Block.rec h0 h1, fun e he => ((h.lists L hlv).inRange e he).1⟩

/-- What each of them toggles it toggles back. -/
theorem commandEffect_commandEffect_sameVectors {i : Instr} (hi : undoesItself i) {s : State} (h : s.Inv)
    (hpass : ∀ c ∈ ownChecks i s, c.1 = true) : SameVectors s (commandEffect i (commandEffect i s)) := by
  cases i
  case etog k j =>
    obtain ⟨-, hj, -⟩ : _ ∧ j < s.cfg.R ∧ _ := by simpa [ownChecks] using hpass
    have htwice := toggleError_toggleError (h.memories.err (blockOf k)) hj
    exact ⟨(congrArg State.err htwice :), rfl, (congrArg State.ew htwice :), rfl⟩
  case stog j =>
    obtain ⟨hj, -⟩ : j < s.cfg.R ∧ _ := by simpa [ownChecks] using hpass
    exact .of_sck (congrArg State.sck (toggleSyndrome_toggleSyndrome h.memories.syn hj))
  case flip k j =>
    obtain ⟨-, hj, hmv, hev, hsv⟩ :
        _ ∧ j < s.cfg.R ∧ s.mv.get (blockOf k) = true ∧ s.ev = true ∧ s.sv = true := by
      simpa [ownChecks, needError] using hpass
    exact flip_flip_sameVectors h hmv hj hev hsv
  case flipl L =>
    obtain ⟨-, h0, h1, hev, hsv, hlv⟩ : _ ∧ s.mv.get .b0 = true ∧ s.mv.get .b1 = true ∧ s.ev = true ∧ s.sv = true ∧
        s.lv.get (listOf L) = true := by
      simpa [ownChecks, needError] using hpass
    have hentries : (commandEffect (.flipl L) s).entries (listOf L) = s.entries (listOf L) :=
      State.entries_congr (by simp [commandEffect]) (by simp [commandEffect])
    refine .of_sck (congrArg State.sck ?_)
    rw [commandEffect, hentries]
    exact (h.flippable h0 h1 hlv).flipEntries_flipEntries hev hsv
  all_goals exact hi.elim

/-- Settles O56: the checks of the second command are those of the first, and its change undoes the first. -/
theorem togglesUndoThemselves : Obligations.TogglesUndoThemselves := by
  intro i s t rw hinv hmatch hexec hresp hstatus
  have hi : undoesItself i := by cases i <;> exact hmatch
  obtain ⟨hpass, rfl⟩ := complete_of_status_zero hexec hresp hstatus
  have hagain : firstFailure (commandChecks i (complete i s)) = none := (commandChecks_complete hi s).symm ▸ hpass
  obtain ⟨herr, hsyn, hew, hsw⟩ := (commandEffect_commandEffect_sameVectors hi hinv (ownChecks_pass hpass)).trans
    (.of_sck (complete_complete_sck i s))
  exact ⟨_, exec_of_pass_of_sck rfl hagain, herr, hsyn, hew, hsw⟩

/-! ## The order of a list of flips (43_ranking.md) -/

theorem xorAll_perm {as bs : List Bool} (h : as.Perm bs) : xorAll as = xorAll bs := by
  rw [xorAll_eq_parity, xorAll_eq_parity, (h.map _).sum_eq]

/-- The positions that a list of entries names. -/
def positionsOf (es : List Entry) : List (Block × Reg24) := es.map fun e => (e.k, e.j)

/-- What a list of flips toggles is fixed by its positions, in any order. -/
theorem togglesError_perm {es fs : List Entry} (h : (positionsOf es).Perm (positionsOf fs)) (k : Block) (j : Nat) :
    togglesError es k j = togglesError fs k j := by
  have hperm := xorAll_perm (h.map fun q => decide (k = q.1 ∧ j = q.2.toNat))
  rwa [positionsOf, positionsOf, List.map_map, List.map_map] at hperm

theorem togglesCheck_perm {es fs : List Entry} (h : (positionsOf es).Perm (positionsOf fs)) (s : State) (a : Nat) :
    togglesCheck s es a = togglesCheck s fs a := by
  have hperm := xorAll_perm (h.map fun q =>
    xorAll ((columnPattern s.cfg.R (s.sparse .columns q.1) q.2.toNat).map fun i => decide (a = i)))
  rwa [positionsOf, positionsOf, List.map_map, List.map_map] at hperm

/-- Flips read no list and commute: states that differ in their lists alone, flipped at the same positions in any order,
have the same vectors. -/
theorem Flippable.sameVectors_of_perm {s : State} {lists : Lists (Memory Entry)} {es fs : List Entry}
    (h : Flippable s es) (h' : Flippable { s with list := lists } fs) (hev : s.ev = true) (hsv : s.sv = true)
    (hperm : (positionsOf es).Perm (positionsOf fs)) :
    SameVectors (flipEntries fs { s with list := lists }) (flipEntries es s) := by
  refine h'.after_flips.inv.sameVectors h.after_flips.inv (by simp) (by simpa using hev) (by simpa using hev)
    (by simpa using hsv) (by simpa using hsv) (fun k j => ?err) fun a => ?syn
  case err =>
    rw [h.errBit, h'.errBit, togglesError_perm hperm]
    rfl
  case syn =>
    rw [h.synBit, h'.synBit, togglesCheck_perm hperm]
    rfl

/-- Settles O57: both runs toggle the same bits of the same vectors, and the invariant fixes the rest. -/
theorem fliplOrderIndependent : Obligations.FliplOrderIndependent := by
  intro s s' t t' L hinv hinv' hs' hf h0 h1 hev hsv hlv hperm hexec hexec'
  obtain ⟨lists, rfl⟩ : ∃ lists, s' = { s with list := lists } := ⟨_, hs'⟩
  obtain rfl := Host.Outcome.next.inj ((exec_flipl_of_valid hf h0 h1 hev hsv hlv).symm.trans hexec)
  obtain rfl := Host.Outcome.next.inj ((exec_flipl_of_valid (s := { s with list := lists }) hf h0 h1 hev hsv
    hlv).symm.trans hexec')
  obtain ⟨herr, hsyn, hew, hsw⟩ :=
    (hinv.flippable h0 h1 hlv).sameVectors_of_perm (hinv'.flippable h0 h1 hlv) hev hsv hperm
  rw [complete_flipl, complete_flipl]
  exact ⟨herr, hsyn, hew, hsw⟩

/-! ## The snapshot right after `CNT` (42_counters.md) -/

theorem complete_cnt_exactCounter (k : Block) (j : Nat) (s : State) :
    exactCounter k j (complete .cnt s) = exactCounter k j s :=
  exactCounter_congr rfl rfl rfl rfl k j

theorem complete_cnt_flags (s : State) :
    (complete .cnt s).fault = s.fault ∧ (complete .cnt s).mv = s.mv ∧ (complete .cnt s).sv = s.sv ∧
      (complete .cnt s).ctv = true := ⟨rfl, rfl, rfl, rfl⟩

/-- Settles O58: `CNT` stores the exact counters and changes nothing that they are formed from. -/
theorem snapshotAgreesAfterCnt : Obligations.SnapshotAgreesAfterCnt := by
  intro s t k j hf h0 h1 hsv hj hexec
  have hpass : exec .cnt s = .next (complete .cnt s) :=
    exec_of_firstFailure_none hf (by simp [ownChecks, Blocks.get, h0, h1, hsv])
  obtain rfl := Host.Outcome.next.inj (hpass.symm.trans hexec)
  obtain ⟨hfault, hmv, hsv', hctv⟩ := complete_cnt_flags s
  have hk : s.mv.get k = true := Block.rec h0 h1 k
  refine ⟨num (exactCounter k j s), ?rdc, ?getc⟩
  case rdc =>
    rw [exec_of_firstFailure_none (hfault.trans hf) (by simp [ownChecks, hj, hctv]), complete_rdc,
      complete_cnt_counter k hj]
  case getc =>
    rw [exec_of_firstFailure_none (hfault.trans hf) (by simp [ownChecks, hj, hmv, hk, hsv', hsv]), complete_getc,
      complete_cnt_exactCounter]

end Sys2Proof.Machine
